-- ==== Sys2Proof/Word.lean ====
section
/-! DEFINITION. The word types of the engine (00_scope.md section 5.1) and the sixteen-word state type `State16`
(10_state.md R21, R22). No arithmetic of the micro-ops stands here: see `Machine/Bits.lean`. -/

namespace Sys2Proof

/-- `Word32`: bit 0 is the least significant bit. -/
abbrev Word := BitVec 32

/-- `Word16`: a micro-op word (R101). -/
abbrev Word16 := BitVec 16

/-- `Word64`: counters, `S`, and binary64 patterns (R26, R33, R34, R43). -/
abbrev Word64 := BitVec 64

/-- `State16`: sixteen words, "interpreted as a 4×4 matrix", index `4*row + col`. -/
abbrev State16 := Vector Word 16

/-- The eight words of a key register (R24). -/
abbrev KeyWords := Vector Word 8

/-- A 256-bit map held as eight 32-bit registers (R37, R44): bit `idx` is bit `idx mod 32` of word `idx div 32`. -/
abbrev Map256 := Vector Word 8

end Sys2Proof
end

