-- ==== Sys2Proof/Machine/F64.lean ====
section
/-! DEFINITION. The IEEE-754 binary64 operations the coordinator uses (45_coordinator.md R243, R248, R249), on 64-bit
patterns, computed exactly on rationals and rounded once, to nearest, ties to even. The engine applies them to finite
numbers only, and divides by a positive one (R248: `T ≥ 1`); see log 16. -/

namespace Sys2Proof.Machine.F64

/-- The sign bit. -/
def sign (x : Word64) : Bool := x.getLsbD 63

/-- The biased exponent field. -/
def expField (x : Word64) : Nat := (x.extractLsb' 52 11).toNat

/-- The fraction field. -/
def fracField (x : Word64) : Nat := (x.extractLsb' 0 52).toNat

/-- A NaN: exponent all ones and a fraction that is not 0. -/
def isNaN (x : Word64) : Bool := expField x == 2047 && fracField x != 0

/-- `fabs`: clear the sign bit (R249). -/
def abs (x : Word64) : Word64 := x &&& 0x7FFFFFFFFFFFFFFF

/-- The magnitude of a finite number, in units of `2^-1074` (the smallest subnormal): an exact integer. -/
def magnitude (x : Word64) : Nat :=
  if expField x = 0 then fracField x else (fracField x + 2 ^ 52) <<< (expField x - 1)

/-- The value of a finite number, in units of `2^-1074`. -/
def value (x : Word64) : Int := if sign x then -(magnitude x : Int) else magnitude x

/-- `⌊log2 (n / d)⌋` for positive `n` and `d`. -/
def log2Ratio (n d : Nat) : Int :=
  let e : Int := (n.log2 : Int) - (d.log2 : Int)
  if d <<< e.toNat ≤ n <<< (-e).toNat then e else e - 1

/-- `n / d` scaled by `2^q` and rounded to an integer, to nearest, ties to even. -/
def roundScaled (n d : Nat) (q : Int) : Nat :=
  let num := n <<< q.toNat
  let den := d <<< (-q).toNat
  let k := num / den
  let r := num % den
  if den < 2 * r ∨ (2 * r = den ∧ k % 2 = 1) then k + 1 else k

/-- The bits below the sign of the binary64 number nearest to `n / d`, `n` and `d` positive: the integer significand is
added to the exponent field, so a carry out of the significand moves the exponent up, subnormals come out with an
exponent field of 0, and a number past the largest finite one is an infinity. -/
def packRatio (n d : Nat) : Nat :=
  let e := max (log2Ratio n d) (-1022)
  min ((e + 1022).toNat * 2 ^ 52 + roundScaled n d (52 - e)) (2047 * 2 ^ 52)

/-- The binary64 number nearest to `± n / d` (round to nearest, ties to even). -/
def ofRatio (neg : Bool) (n d : Nat) : Word64 :=
  BitVec.ofBool neg ++ BitVec.ofNat 63 (if n = 0 then 0 else packRatio n d)

/-- `f64(n)`: the conversion of a non-negative integer, exact below `2^53` (00_scope.md 5.1). -/
def ofNat (n : Nat) : Word64 := ofRatio false n 1

/-- `fmul` (R248). -/
def mul (x y : Word64) : Word64 := ofRatio (sign x ^^ sign y) (magnitude x * magnitude y) (2 ^ 2148)

/-- `fdiv` (R248), for a divisor that is not zero. -/
def div (x y : Word64) : Word64 := ofRatio (sign x ^^ sign y) (magnitude x) (magnitude y)

/-- `fsub` (R248): an exact zero difference of unequal-signed or positive operands is `+0.0` in round-to-nearest. -/
def sub (x y : Word64) : Word64 :=
  let v := value x - value y
  if v = 0 then ofRatio (sign x && !sign y) 0 1 else ofRatio (decide (v < 0)) v.natAbs (2 ^ 1074)

/-- The order of the numbers, infinities included, on patterns that are no NaN; `−0.0` and `+0.0` are equal. -/
def orderKey (x : Word64) : Int := if sign x then -((abs x).toNat : Int) else (abs x).toNat

/-- IEEE-754 `x < y`: false when either is a NaN. -/
def lt (x y : Word64) : Bool := !isNaN x && !isNaN y && decide (orderKey x < orderKey y)

/-- IEEE-754 `x ≤ y`: false when either is a NaN. -/
def le (x y : Word64) : Bool := !isNaN x && !isNaN y && decide (orderKey x ≤ orderKey y)

/-- `0.0` -/
def zero : Word64 := 0

/-- `1.0` -/
def one : Word64 := 0x3FF0000000000000

/-- `2.0` -/
def two : Word64 := 0x4000000000000000

end Sys2Proof.Machine.F64
end

