-- ==== Sys2Proof/Machine/Bits.lean ====
section
/-! DEFINITION. The bit primitives of 40_bit_primitives.md (R130 to R132), parity (00_scope.md 5.1), the two halves of
64-bit quantities (R62), and bits of a 256-bit map (R37). -/

namespace Sys2Proof.Machine

/-- `rotl32(w, n)`: left rotation by `n mod 32` (R130). -/
def rotl32 (w : Word) (n : Nat) : Word :=
  if n % 32 = 0 then w else (w <<< (n % 32)) ||| (w >>> (32 - n % 32))

/-- `get_bit(w, b)` (R131). -/
def getBit (w : Word) (b : Nat) : Bool := w.getLsbD b

/-- `toggle_bit(w, b)` (R132). -/
def toggleBit (w : Word) (b : Nat) : Word := w ^^^ (1#32 <<< b)

/-- `popcount(w)`: the number of 1 bits. -/
def popcount (w : Word) : Nat := ((List.range 32).map fun b => (getBit w b).toNat).sum

/-- `parity32(w) = popcount(w) mod 2`, as a flag. -/
def parity32 (w : Word) : Bool := popcount w % 2 == 1

/-- Bits 31:0 of a 64-bit quantity: the word at the lower address (R62). -/
def lowWord (v : Word64) : Word := v.extractLsb' 0 32

/-- Bits 63:32 of a 64-bit quantity (R62). -/
def highWord (v : Word64) : Word := v.extractLsb' 32 32

/-- `v` with its bits 31:0 replaced. -/
def withLowWord (v : Word64) (w : Word) : Word64 := highWord v ++ w

/-- `v` with its bits 63:32 replaced. -/
def withHighWord (v : Word64) (w : Word) : Word64 := w ++ lowWord v

/-- Bit `idx` of a map: bit `idx mod 32` of word `idx div 32` (R37, R44). False at and above 256. -/
def mapBit (m : Map256) (idx : Nat) : Bool :=
  match m[idx / 32]? with
  | some w => getBit w (idx % 32)
  | none => false

/-- The map with bit `idx` set; unchanged at and above 256. -/
def mapSet (m : Map256) (idx : Nat) : Map256 :=
  m.setIfInBounds (idx / 32) ((m[idx / 32]?.getD 0) ||| (1#32 <<< (idx % 32)))

/-- A state whose word `i` is `f i`. -/
def stateOf (f : Fin 16 → Word) : State16 := Vector.ofFn f

end Sys2Proof.Machine
end

