-- ==== Sys2Proof/Syntax.lean ====
section
/-! DEFINITION. The ARX micro-op set, version 1: one constructor of `Instr` per row of spec/opcode_table.json
(30_encoding.md R100, R118), and the operand kinds of R111. -/

namespace Sys2Proof

/-- The nine state registers of a lane, in the order of their ids 0 to 8 (10_state.md R21). Ids 9 to 15 name none. -/
inductive SReg where
  | X | XP | XR | XPR | SUM | SUMP | M | MP | D
  deriving DecidableEq, Repr, Inhabited

/-- The ordering of the quartets (R160, R111): `odd` = columns (`ord` bit 1), `even` = rows (`ord` bit 0). -/
inductive Ord where
  | odd | even
  deriving DecidableEq, Repr

/-- The four rotation amounts (R111): `rsel` 0, 1, 2, 3 for 7, 9, 13, 18. -/
inductive Rot where
  | r7 | r9 | r13 | r18
  deriving DecidableEq, Repr

/-- The fill of INITC (R109): `rnd` = the IV is drawn (`f = 0`), `fix` = it is `IVFIX` (`f = 1`). -/
inductive Fill where
  | rnd | fix
  deriving DecidableEq, Repr

/-- The flag PAR writes (R109): `fwd` = `FP` (`f = 0`, `PAR.F`), `bwd` = `BP` (`f = 1`, `PAR.B`). -/
inductive Side where
  | fwd | bwd
  deriving DecidableEq, Repr

/-- The twenty micro-ops in opcode order (R100). -/
inductive Instr where
  /-- DRAWK (R146) -/
  | drawk
  /-- TGLK (R192) -/
  | tglk
  /-- MATCH (R193) -/
  | matchUop
  /-- END (R194) -/
  | endUop
  /-- COPY dst, src (R140) -/
  | copy (dst src : SReg)
  /-- ADD z, a, b (R141) -/
  | add (z a b : SReg)
  /-- SUB z, a, b (R142) -/
  | sub (z a b : SReg)
  /-- XOR z, a, b (R143) -/
  | xor (z a b : SReg)
  /-- ARX s, r, ord (R164) -/
  | arx (s : SReg) (r : Rot) (o : Ord)
  /-- UARX18 s (R165) -/
  | uarx18 (s : SReg)
  /-- HR1 s, ord (R166) -/
  | hr1 (s : SReg) (o : Ord)
  /-- HR2 s, ord (R167) -/
  | hr2 (s : SReg) (o : Ord)
  /-- BHR1 s, ord (R168) -/
  | bhr1 (s : SReg) (o : Ord)
  /-- BHR2 s, ord (R169) -/
  | bhr2 (s : SReg) (o : Ord)
  /-- FROUND s, idx (R170); the round index is a number, 0 to 255 in a well-formed term -/
  | fround (s : SReg) (idx : Nat)
  /-- BROUND s, idx (R171); the round index is a number, 0 to 255 in a well-formed term -/
  | bround (s : SReg) (idx : Nat)
  /-- INITC s, RND and INITC s, FIX (R144) -/
  | initc (s : SReg) (f : Fill)
  /-- INSKEY s (R145) -/
  | inskey (s : SReg)
  /-- INJ s (R190) -/
  | inj (s : SReg)
  /-- PAR.F s and PAR.B s (R191) -/
  | par (s : SReg) (f : Side)
  deriving DecidableEq, Repr

/-- The mnemonic of an instruction, as spec/opcode_table.json spells it. -/
def Instr.mnemonic : Instr → String
  | .drawk => "DRAWK"
  | .tglk => "TGLK"
  | .matchUop => "MATCH"
  | .endUop => "END"
  | .copy _ _ => "COPY"
  | .add _ _ _ => "ADD"
  | .sub _ _ _ => "SUB"
  | .xor _ _ _ => "XOR"
  | .arx _ _ _ => "ARX"
  | .uarx18 _ => "UARX18"
  | .hr1 _ _ => "HR1"
  | .hr2 _ _ => "HR2"
  | .bhr1 _ _ => "BHR1"
  | .bhr2 _ _ => "BHR2"
  | .fround _ _ => "FROUND"
  | .bround _ _ => "BROUND"
  | .initc _ _ => "INITC"
  | .inskey _ => "INSKEY"
  | .inj _ => "INJ"
  | .par _ _ => "PAR"

end Sys2Proof
end

