-- ==== Sys2Proof/Config.lean ====
section
/-! DEFINITION. What the platform fixes (00_scope.md R6) and the free values of the model: every constant here is
`opaque` with no body, so nothing can be proved about its value. The kinds of input that the outside world gives the
block (draw answers, host accesses, turns) stand here too, because the free values range over them. -/

namespace Sys2Proof

/-- The answer of a lane's RNG source to one draw (41_state_ops.md R150): "a `Word32` or `Fail`". -/
inductive Draw where
  | word (w : Word)
  | fail
  deriving DecidableEq, Repr, Inhabited

/-- `MODE.KEY128` as a name: which key size, and so which row of `CONST` (R6, R30). -/
inductive KeyMode where
  | key256 | key128
  deriving DecidableEq, Repr, Inhabited

/-- A whole-word access of the host to the register map (20_memory.md R60, R64). -/
inductive RegAccess where
  | read (a : BitVec 11)
  | write (a : BitVec 11) (v : Word)
  deriving DecidableEq, Repr, Inhabited

/-- What a platform bus offers the host port: a whole-word access, or one that R63 says must not be forwarded (a
byte, a half-word, a misaligned access). -/
inductive HostAccess where
  | reg (r : RegAccess)
  | narrow
  deriving DecidableEq, Repr

/-- Who takes the next indivisible step (10_state.md R20, 20_memory.md R75), the platform's reset event (R340)
among them. -/
inductive Agent where
  | host
  | coordinator
  | lane (l : Nat)
  | reset
  deriving DecidableEq, Repr, Inhabited

/-- Byte order of a byte-addressed bus wrapper (R62). -/
inductive Endian where
  | little | big
  deriving DecidableEq, Repr, Inhabited

namespace Config

/-- `NLANES - 1`: the parameter `NLANES` (R6) is any number from 1 to 256. -/
opaque lanesBeyondFirst : Fin 256

/-- `NLANES` (R6, D20): "integer, 1 to 256". -/
def nlanes : Nat := lanesBeyondFirst.val + 1

/-- `CONST` (R6, D17): the four constants for positions 0, 5, 10, 15, one row per key size. -/
opaque constants : KeyMode → Fin 4 → Word

/-- `U_ALT` (R6, R165, D16): what UARX18 does when `MODE.UMODE = 1`. -/
opaque uAlt : State16 → State16

/-- `RNG` (R6, R46, U5): the answer of lane `l`'s source to its draw number `n`, past the answers State holds. -/
opaque draw : (lane n : Nat) → Draw

/-- U1: what a state register of a lane holds once its contents are unspecified (R23). -/
opaque scratchState : (tick lane : Nat) → SReg → State16

/-- U1: what the key register of a lane holds once its contents are unspecified (R24). -/
opaque scratchKey : (tick lane : Nat) → KeyWords

/-- U1: what a parity flag of a lane holds once its contents are unspecified (R25). -/
opaque scratchFlag : (tick lane : Nat) → Side → Bool

/-- U2: what a lane-0 window read answers while `BUSY = 1` (R71). -/
opaque windowRead : (tick : Nat) → Word

/-- U7: who takes the step number `tick`, past the turns State holds (R75, R214). -/
opaque turn : (tick : Nat) → Agent

/-- What the host does at step number `tick`, past the accesses State holds; `none`: nothing (R20, R75). -/
opaque hostAccess : (tick : Nat) → Option RegAccess

/-- U8: which of the two binary64 numbers around it the report shows for a `−log2` that is none itself (R284, log 24). -/
opaque negLog2Up : Word64 → Bool

/-- `−log2` of a magnitude above 1 or of a NaN: no bias is one (R280), and the spec states no value (log 24). -/
opaque negLog2Outside : Word64 → Word64

/-- `BASE` (R6, R67): where a platform places the register map. -/
opaque base : Nat

/-- `BUS_ENDIAN` (R6, R62). -/
opaque busEndian : Endian

end Config

end Sys2Proof
end

