-- ==== Sys2Proof/Machine/State.lean ====
section
/-! DEFINITION. The state of the engine as plain data (10_state.md R20 to R47), the reasons a step can stop, and the
state after reset (R340). The fields of `Inputs` are the model's own; every other field is named by the spec. -/

namespace Sys2Proof.Machine

/-- The fault of a micro-op (60_exceptions.md R301), taken as R305 or R307 says: a next state, never a stop. -/
inductive LaneFault where
  /-- code 1 -/
  | rngFail
  /-- code 2 -/
  | illegalUop
  /-- code 3 -/
  | badTarget
  deriving DecidableEq, Repr

/-- Why START was refused (R40, R242): `CFGCODE` 1, 2, 3. -/
inductive StartError where
  | rounds | workers | trials
  deriving DecidableEq, Repr

/-- `LRUN` (R28). -/
inductive LRun where
  | idle | run | done | fault
  deriving DecidableEq, Repr

/-- `CST` (R45, R240). -/
inductive CState where
  | idle | scan | wait | prog
  deriving DecidableEq, Repr

/-- Where the micro-op being executed comes from: the UOP port, on lane 0 (R72), or the trial program, on lane `l`
(R214). The model's own (log 11). -/
inductive Issue where
  | uopPort
  | program (l : Nat)
  deriving DecidableEq, Repr

/-- The nine state registers of a lane (R21). -/
structure SRFile where
  x : State16
  xp : State16
  xr : State16
  xpr : State16
  sum : State16
  sump : State16
  m : State16
  mp : State16
  d : State16
  deriving DecidableEq, Repr

/-- One lane (R20 to R28). `rng` and `drawn` are the lane's RNG source, outside the block (R46): the answers already
fixed, next first, and how many draws have been answered (log 8). -/
structure Lane where
  sr : SRFile
  k : KeyWords
  fp : Bool
  bp : Bool
  mc : Word64
  tc : Word64
  upc : BitVec 12
  lrun : LRun
  /-- `LF`; `none` is code 0 -/
  lf : Option LaneFault
  rng : List Draw
  drawn : Nat
  deriving DecidableEq, Repr

/-- The global configuration registers (R30 to R39). -/
structure CfgRegs where
  mode : Word
  rounds : Word
  nw : Word
  /-- `S = {S_HI, S_LO}` -/
  trials : Word64
  /-- `{THR_HI, THR_LO}` -/
  thr : Word64
  idm : State16
  omsk : State16
  skip : Map256
  ivfix : Vector Word 4
  target : Word
  deriving DecidableEq, Repr

/-- `STATUS` (R40) without `BUSY`, which is `CST ≠ C_IDLE` (R240) and stored there alone (log 18). -/
structure StatusReg where
  done : Bool
  cfgerr : Bool
  wkerr : Bool
  fatal : Bool
  thrdef : Bool
  uoperr : Bool
  /-- `CFGCODE`; `none` is 0 -/
  cfgcode : Option StartError
  /-- `UOPCODE`; `none` is 0 -/
  uopcode : Option LaneFault
  deriving DecidableEq, Repr

/-- The progress, error and result registers (R41 to R44). -/
structure ResultRegs where
  progress : Word
  wkerrcnt : Word
  matchCounts : Vector Word64 256
  bias : Vector Word64 256
  pnb : Map256
  npnb : Map256
  donemap : Map256
  deriving DecidableEq, Repr

/-- The coordinator's own state (R45). -/
structure Coord where
  cst : CState
  cidx : BitVec 9
  threff : Word64
  deriving DecidableEq, Repr

/-- The model's own fields: the outside world's inputs already fixed, what the last register read answered, the number
of steps taken, and where the current micro-op comes from (logs 5, 6, 11, 15, 20). -/
structure Inputs where
  /-- turns already decided, next first (U7) -/
  sched : List Agent
  /-- the host's pending accesses, oldest first -/
  hostq : List HostAccess
  /-- the word the last `RegRead` answered -/
  rdata : Word
  /-- steps taken so far: what the free values of Config are applied to -/
  tick : Nat
  issue : Issue
  deriving DecidableEq, Repr

/-- The whole machine. `NLANES` is the length of `lanes` (log 3). -/
structure State where
  lanes : List Lane
  cfg : CfgRegs
  status : StatusReg
  res : ResultRegs
  coord : Coord
  inp : Inputs
  deriving DecidableEq, Repr

/-- Why the machine stops. Each is raised only in a state that no run from reset reaches, so each is SAFE (log 13). -/
inductive Fault where
  /-- Raised by a micro-op whose issuing lane is not among the lanes State holds. SAFE: no lane step or UOP write of a
  machine with at least one lane raises it. -/
  | noSuchLane
  /-- Raised by a lane step while `R_f > R`: "`TrialProgram` is defined only for a configuration that passes the START
  check" (R210). SAFE: START refuses such a configuration and the configuration is locked during a run. -/
  | noTrialProgram
  /-- Raised by a lane step whose `upc` is past the end of the list: "always in range" (R214). SAFE. -/
  | upcOutOfRange
  /-- Raised by the join when `W·S = 0`, where the bias would be 0/0 (R242, R248). SAFE: START refuses it. -/
  | noTrials
  deriving DecidableEq, Repr

/-- What the model has no step for. -/
inductive Refusal where
  /-- Raised by exec's arm of an instruction that has no meaning yet. SAFE. -/
  | notModelled (mnemonic : String)
  /-- Raised by a host turn whose access is a byte, half-word or misaligned access: "a model refuses them (no step)"
  (R63, U4). SAFE. -/
  | narrowAccess
  deriving DecidableEq, Repr

/-! ### Reset (R340; values of 10_state.md section 6) -/

/-- The state registers with every word unspecified (R23, U1): free values of Config. -/
def SRFile.unspecified (tick lane : Nat) : SRFile where
  x := Config.scratchState tick lane .X
  xp := Config.scratchState tick lane .XP
  xr := Config.scratchState tick lane .XR
  xpr := Config.scratchState tick lane .XPR
  sum := Config.scratchState tick lane .SUM
  sump := Config.scratchState tick lane .SUMP
  m := Config.scratchState tick lane .M
  mp := Config.scratchState tick lane .MP
  d := Config.scratchState tick lane .D

/-- Lane `l` after a reset taken at step `tick`; its RNG source is untouched (R46, R340). -/
def Lane.reset (tick l : Nat) (rng : List Draw) (drawn : Nat) : Lane where
  sr := SRFile.unspecified tick l
  k := Config.scratchKey tick l
  fp := Config.scratchFlag tick l .fwd
  bp := Config.scratchFlag tick l .bwd
  mc := 0
  tc := 0
  upc := 0
  lrun := .idle
  lf := none
  rng := rng
  drawn := drawn

/-- The default threshold 0.35 (R34): the binary64 number nearest to it. -/
def defaultThreshold : Word64 := 0x3FD6666666666666

/-- The configuration registers after reset, on a block of `nlanes` lanes (R30 to R39). -/
def CfgRegs.reset (nlanes : Nat) : CfgRegs where
  mode := 0x00000002
  rounds := 0
  nw := BitVec.ofNat 32 (max 1 (nlanes - 1))
  trials := 0x40000
  thr := defaultThreshold
  idm := Vector.replicate 16 0
  omsk := Vector.replicate 16 0
  skip := Vector.replicate 8 0
  ivfix := Vector.replicate 4 0
  target := 0

/-- `STATUS = 0` (R40), `BUSY` apart. -/
def StatusReg.clear : StatusReg where
  done := false
  cfgerr := false
  wkerr := false
  fatal := false
  thrdef := false
  uoperr := false
  cfgcode := none
  uopcode := none

/-- The result registers all zero (R41 to R44), `BIAS` at `+0.0`. -/
def ResultRegs.clear : ResultRegs where
  progress := 0
  wkerrcnt := 0
  matchCounts := Vector.replicate 256 0
  bias := Vector.replicate 256 0
  pnb := Vector.replicate 8 0
  npnb := Vector.replicate 8 0
  donemap := Vector.replicate 8 0

/-- The coordinator after reset (R45). -/
def Coord.reset : Coord where
  cst := .idle
  cidx := 0
  threff := defaultThreshold

/-- No input fixed yet and no step taken (logs 5, 6, 11, 15, 20). -/
def Inputs.reset : Inputs where
  sched := []
  hostq := []
  rdata := 0
  tick := 0
  issue := .uopPort

/-- The machine right after reset (R340): `NLANES` lanes, lane 0 first; idle, and executing nothing until the host
writes `CTRL.START` or `UOP` (R341). -/
def State.reset : State where
  lanes := Lane.reset 0 0 [] 0 :: (List.range Config.lanesBeyondFirst.val).map fun l => Lane.reset 0 (l + 1) [] 0
  cfg := CfgRegs.reset Config.nlanes
  status := StatusReg.clear
  res := ResultRegs.clear
  coord := Coord.reset
  inp := Inputs.reset

end Sys2Proof.Machine
end

