-- ==== Sys2Proof/Machine/Operands.lean ====
section
/-! DEFINITION. Every operand form a micro-op can take: a state register by name (R21, R111), a round index as an
ordering (R111, R170), the fields of the configuration registers read by name (R30 to R39), and the positions of key
and IV words in a state (R22). -/

namespace Sys2Proof.Machine

/-! ### State registers -/

/-- The state register `r` of a register file. -/
def SRFile.get (f : SRFile) : SReg → State16
  | .X => f.x
  | .XP => f.xp
  | .XR => f.xr
  | .XPR => f.xpr
  | .SUM => f.sum
  | .SUMP => f.sump
  | .M => f.m
  | .MP => f.mp
  | .D => f.d

/-- The register file with register `r` holding `v`: no register is hardwired and none aliases another (R21). -/
def SRFile.put (f : SRFile) (r : SReg) (v : State16) : SRFile :=
  match r with
  | .X => { f with x := v }
  | .XP => { f with xp := v }
  | .XR => { f with xr := v }
  | .XPR => { f with xpr := v }
  | .SUM => { f with sum := v }
  | .SUMP => { f with sump := v }
  | .M => { f with m := v }
  | .MP => { f with mp := v }
  | .D => { f with d := v }

/-- `SR[l][r]` of a lane (00_scope.md 5.2). -/
def Lane.reg (L : Lane) (r : SReg) : State16 := L.sr.get r

/-- The lane with state register `r` holding `v`. -/
def Lane.putReg (L : Lane) (r : SReg) (v : State16) : Lane := { L with sr := L.sr.put r v }

/-! ### Orderings and rotation amounts -/

/-- The ordering of round `idx`: "ordering = odd if round_index is odd else even" (R111, R170). -/
def roundOrd (idx : Nat) : Ord := if idx % 2 = 1 then .odd else .even

/-- The rotation amount as a number (R111). -/
def Rot.amount : Rot → Nat
  | .r7 => 7
  | .r9 => 9
  | .r13 => 13
  | .r18 => 18

/-! ### Configuration fields -/

/-- `MODE.KEY128` (R30). -/
def CfgRegs.key128 (c : CfgRegs) : Bool := getBit c.mode 0

/-- `MODE.TAILEN` (R30). -/
def CfgRegs.tailen (c : CfgRegs) : Bool := getBit c.mode 1

/-- `MODE.UMODE` (R30). -/
def CfgRegs.umode (c : CfgRegs) : Bool := getBit c.mode 2

/-- The row of `CONST` in use (R144). -/
def CfgRegs.keyMode (c : CfgRegs) : KeyMode := if c.key128 then .key128 else .key256

/-- `key_word_count = 4 if KEY128 else 8` (R30). -/
def CfgRegs.keyWordCount (c : CfgRegs) : Nat := if c.key128 then 4 else 8

/-- `key_bit_count = 32 · key_word_count` (R30). -/
def CfgRegs.keyBitCount (c : CfgRegs) : Nat := 32 * c.keyWordCount

/-- `ROUNDS.RINT` (R31). -/
def CfgRegs.rint (c : CfgRegs) : Nat := (c.rounds.extractLsb' 0 7).toNat

/-- `ROUNDS.RFRAC` (R31). -/
def CfgRegs.rfrac (c : CfgRegs) : Bool := getBit c.rounds 7

/-- `ROUNDS.FINT` (R31). -/
def CfgRegs.fint (c : CfgRegs) : Nat := (c.rounds.extractLsb' 8 7).toNat

/-- `ROUNDS.FFRAC` (R31). -/
def CfgRegs.ffrac (c : CfgRegs) : Bool := getBit c.rounds 15

/-- `NW.W` (R32). -/
def CfgRegs.workers (c : CfgRegs) : Nat := (c.nw.extractLsb' 0 9).toNat

/-- `TARGET.KB` (R39). -/
def CfgRegs.kb (c : CfgRegs) : Nat := (c.target.extractLsb' 0 5).toNat

/-- `TARGET.KW` (R39). -/
def CfgRegs.kw (c : CfgRegs) : Fin 8 := (c.target.extractLsb' 5 3).toFin

/-! ### Key and IV positions in a state (R22) -/

/-- `K[0..3]` to words 1..4 and `K[4..7]` to words 11..14 (R145). -/
def insertKey (S : State16) (K : KeyWords) : State16 :=
  ((((S.set 1 K[0]).set 2 K[1]).set 3 K[2]).set 4 K[3]) |> fun T =>
  ((((T.set 11 K[4]).set 12 K[5]).set 13 K[6]).set 14 K[7])

/-- Constants to words 0, 5, 10, 15 and the IV to words 6..9 (R144). -/
def initConstIv (m : KeyMode) (iv : Vector Word 4) (S : State16) : State16 :=
  ((((S.set 0 (Config.constants m 0)).set 5 (Config.constants m 1)).set 10 (Config.constants m 2)).set 15
    (Config.constants m 3)) |> fun T =>
  ((((T.set 6 iv[0]).set 7 iv[1]).set 8 iv[2]).set 9 iv[3])

/-- Toggle bit `b` of key word `j`. -/
def toggleKeyBit (K : KeyWords) (j : Fin 8) (b : Nat) : KeyWords := K.set j (toggleBit K[j] b)

end Sys2Proof.Machine
end

