-- ==== Sys2Proof/Machine/Flags.lean ====
section
/-! DEFINITION. The flag computations. The only flags are the parity flags `FP` and `BP` (R25): there are no carry,
zero, sign or overflow flags. -/

namespace Sys2Proof.Machine

/-- The parity accumulator (R191): the XOR over all words of `parity32(s[w] & OMSK[w])`. -/
def maskedParity (omsk S : State16) : Bool :=
  (List.finRange 16).foldl (fun p w => p ^^ parity32 (S[w] &&& omsk[w])) false

/-- Write one parity flag: `FP` for `PAR.F`, `BP` for `PAR.B` (R191); the other keeps its value. -/
def Lane.putFlag (L : Lane) (side : Side) (p : Bool) : Lane :=
  match side with
  | .fwd => { L with fp := p }
  | .bwd => { L with bp := p }

/-- "`fwd_parity == bwd_parity`" (R193). -/
def Lane.flagsMatch (L : Lane) : Bool := L.fp == L.bp

end Sys2Proof.Machine
end

