-- ==== Sys2Proof/Machine/Ops.lean ====
section
/-! DEFINITION. The operations every micro-op is written over: finding and putting the issuing lane, moving its
micro-PC (R27, R72, R214), drawing random words (R150), taking a lane fault (R305, R307) and leaving one (R247, R68),
losing the scratch contents (R23), and the reset event (R340). -/

namespace Sys2Proof.Machine

/-- What an instruction or a step answers. -/
abbrev Result := Host.Outcome State Fault Refusal

/-! ### Lanes -/

/-- The lane a micro-op is issued on: lane 0 from the UOP port (R72). -/
def Issue.lane : Issue → Nat
  | .uopPort => 0
  | .program l => l

/-- The state with lane `l` replaced: "no lane reads or writes another lane's state" (R20). -/
def State.putLane (s : State) (l : Nat) (L : Lane) : State := { s with lanes := s.lanes.set l L }

/-- The state with lane `l` replaced and the model's issue field set. -/
def State.issuedFrom (s : State) (i : Issue) : State := { s with inp := { s.inp with issue := i } }

/-- Every lane through `f`, with its index, from index `l` up. -/
def mapLanesFrom (f : Nat → Lane → Lane) : Nat → List Lane → List Lane
  | _, [] => []
  | l, L :: rest => f l L :: mapLanesFrom f (l + 1) rest

/-- Every lane of the machine through `f`, with its index. -/
def State.mapLanes (s : State) (f : Nat → Lane → Lane) : State := { s with lanes := mapLanesFrom f 0 s.lanes }

/-- Run a micro-op on the issuing lane. -/
def onLane (s : State) (k : Lane → Result) : Result :=
  match s.lanes[s.inp.issue.lane]? with
  | some L => k L
  | none => .fault .noSuchLane

/-- `upc <- upc + 1` when the micro-op runs from the trial program (R214), `upc` unchanged on the UOP port (R72). -/
def Lane.advance (L : Lane) : Issue → Lane
  | .uopPort => L
  | .program _ => { L with upc := L.upc + 1 }

/-- The micro-op is complete: the lane as the micro-op left it, with its micro-PC moved on. -/
def retire (s : State) (L : Lane) : State := s.putLane s.inp.issue.lane (L.advance s.inp.issue)

/-! ### Draws (R150) -/

/-- The answer to the lane's next draw: the next one State holds, else a free value (U5). -/
def Lane.nextDraw (L : Lane) (l : Nat) : Draw :=
  match L.rng with
  | d :: _ => d
  | [] => Config.draw l L.drawn

/-- The lane's source after one more answer. -/
def Lane.afterDraw (L : Lane) : Lane := { L with rng := L.rng.tail, drawn := L.drawn + 1 }

/-- `n` draws in order, stopping at the first `Fail` ("the draws already consumed stay consumed", R144): the words,
or none, and the lane with its source moved on and nothing else changed. -/
def drawWords (l : Nat) : (n : Nat) → Lane → Option (Vector Word n) × Lane
  | 0, L => (some #v[], L)
  | n + 1, L =>
    match drawWords l n L with
    | (none, L') => (none, L')
    | (some ws, L') =>
      match L'.nextDraw l with
      | .word w => (some (ws.push w), L'.afterDraw)
      | .fail => (none, L'.afterDraw)

/-! ### Taking a lane fault, and leaving one -/

/-- The 4-bit code of a fault (R301); 0 is no fault. -/
def LaneFault.code : Option LaneFault → BitVec 4
  | none => 0
  | some .rngFail => 1
  | some .illegalUop => 2
  | some .badTarget => 3

/-- The lane that faulted in a batch (R305): `LRUN <- FAULT; LF <- code(F)` and nothing else. -/
def Lane.faulted (L : Lane) (f : LaneFault) : Lane := { L with lrun := .fault, lf := some f }

/-- The status after a fault on the UOP port (R307): `UOPERR <- 1`, `UOPCODE <- code(F)`. -/
def StatusReg.uopFault (st : StatusReg) (f : LaneFault) : StatusReg := { st with uoperr := true, uopcode := some f }

/-- Take a lane fault. `L` is the issuing lane with only its RNG source moved on. In a batch R305 applies; on the UOP
port R307: lane-0 state unchanged, and the lane does not enter `FAULT`. -/
def takeLaneFault (s : State) (L : Lane) (f : LaneFault) : State :=
  match s.inp.issue with
  | .uopPort => { s.putLane 0 L with status := s.status.uopFault f }
  | .program l => s.putLane l (L.faulted f)

/-- How a lane leaves `FAULT`, or `DONE`: the join sets it back to `IDLE` (R247, R305); `LF` keeps its code (R28). -/
def Lane.release (L : Lane) : Lane := { L with lrun := .idle }

/-- How the sticky UOP-port fault leaves `STATUS`: `CTRL.CLR` sets `STATUS <- 0` (R68, R307). -/
def State.clearStatus (s : State) : State := { s with status := StatusReg.clear }

/-! ### Scratch contents and reset -/

/-- The lane with its state registers, key and flags unspecified again (R23 to R25, U1, log 2). -/
def Lane.forget (L : Lane) (tick l : Nat) : Lane :=
  { L with sr := SRFile.unspecified tick l, k := Config.scratchKey tick l,
           fp := Config.scratchFlag tick l .fwd, bp := Config.scratchFlag tick l .bwd }

/-- `STATUS.BUSY = 1` exactly when `CST ≠ C_IDLE` (R240). -/
def State.busy (s : State) : Bool := s.coord.cst != .idle

/-- The reset event (R340): every piece of state at its reset value, the RNG sources untouched (R46), and the inputs
of the outside world kept (log 7). -/
def State.resetEvent (s : State) : State where
  lanes := mapLanesFrom (fun l L => Lane.reset s.inp.tick l L.rng L.drawn) 0 s.lanes
  cfg := CfgRegs.reset s.lanes.length
  status := StatusReg.clear
  res := ResultRegs.clear
  coord := Coord.reset
  inp := { s.inp with issue := .uopPort }

end Sys2Proof.Machine
end

