-- ==== Sys2Proof/WellFormed.lean ====
section
/-! DEFINITION. Which terms of `Instr` stand for a legal word. Register ids above 8 and rotations outside
{7, 9, 13, 18} cannot be written as terms at all (their types are closed sets of names), so the one thing left to
check is the round index of FROUND and BROUND (30_encoding.md R108, R118: "`idx ≤ 255`"). -/

namespace Sys2Proof

/-- A round index fits the 8-bit `idx` field of format R (R108). -/
def roundIndexOk (idx : Nat) : Bool := decide (idx ≤ 255)

/-- The term is one the encoder gives a word of its own (R118). -/
def Instr.wellFormed : Instr → Bool
  | .drawk | .tglk | .matchUop | .endUop => true
  | .copy _ _ | .add _ _ _ | .sub _ _ _ | .xor _ _ _ => true
  | .arx _ _ _ | .uarx18 _ => true
  | .hr1 _ _ | .hr2 _ _ | .bhr1 _ _ | .bhr2 _ _ => true
  | .fround _ idx | .bround _ idx => roundIndexOk idx
  | .initc _ _ | .inskey _ | .inj _ | .par _ _ => true

end Sys2Proof
end

