-- ==== Sys2Proof/Decode.lean ====
section
/-! DEFINITION. The micro-op decoder, total on all 65536 words and rejecting by name (30_encoding.md R101 to R113,
R118), its inverse the encoder, and the opcode map of R113 as a table of rows (mask, match, register fields). -/

namespace Sys2Proof

/-- Why a word is illegal: the four clauses of R112. All four raise the one fault `IllegalUop`; the names are the
model's own. Where a word falls under (b) and (c) both, (c) is named. -/
inductive Illegal where
  /-- R112 (a): `op` is 0xE or 0xF -/
  | opcode
  /-- R112 (b): a state-register field holds an id from 9 to 15 -/
  | registerId
  /-- R112 (c): a "must be" field does not hold the stated value -/
  | fixedField
  /-- R112 (d): format Z with a `funct` outside 0x01 .. 0x04 -/
  | funct
  deriving DecidableEq, Repr

/-! ### Field values (R111) -/

/-- The register an id names; ids 9 to 15 name none (10_state.md R21). -/
def SReg.ofId (id : Nat) : Option SReg :=
  match id with
  | 0 => some .X
  | 1 => some .XP
  | 2 => some .XR
  | 3 => some .XPR
  | 4 => some .SUM
  | 5 => some .SUMP
  | 6 => some .M
  | 7 => some .MP
  | 8 => some .D
  | _ => none

/-- The 4-bit id of a register (10_state.md R21). -/
def SReg.id : SReg → BitVec 4
  | .X => 0
  | .XP => 1
  | .XR => 2
  | .XPR => 3
  | .SUM => 4
  | .SUMP => 5
  | .M => 6
  | .MP => 7
  | .D => 8

/-- A state-register field: R112 (b) when the id is above 8. -/
def decodeReg (f : BitVec 4) : Except Illegal SReg :=
  match SReg.ofId f.toNat with
  | some r => .ok r
  | none => .error .registerId

/-- `rsel`: 0, 1, 2, 3 for 7, 9, 13, 18. -/
def Rot.ofSel (f : BitVec 2) : Rot :=
  match f.toNat with
  | 0 => .r7
  | 1 => .r9
  | 2 => .r13
  | _ => .r18

/-- The `rsel` field of a rotation. -/
def Rot.sel : Rot → BitVec 2
  | .r7 => 0
  | .r9 => 1
  | .r13 => 2
  | .r18 => 3

/-- `ord`: 1 = odd, 0 = even. -/
def Ord.ofBit (b : Bool) : Ord := if b then .odd else .even

/-- The `ord` bit of an ordering. -/
def Ord.bit : Ord → Bool
  | .odd => true
  | .even => false

/-- `f` of INITC: 0 = RND, 1 = FIX (R109). -/
def Fill.ofBit (b : Bool) : Fill := if b then .fix else .rnd

/-- The `f` bit of a fill. -/
def Fill.bit : Fill → Bool
  | .rnd => false
  | .fix => true

/-- `f` of PAR: 0 = `PAR.F`, 1 = `PAR.B` (R109). -/
def Side.ofBit (b : Bool) : Side := if b then .bwd else .fwd

/-- The `f` bit of a side. -/
def Side.bit : Side → Bool
  | .fwd => false
  | .bwd => true

/-! ### The decoder -/

/-- Format Z (R102): `funct` 0x01 DRAWK, 0x02 TGLK, 0x03 MATCH, 0x04 END. -/
def decodeFunct (funct : Nat) : Except Illegal Instr :=
  match funct with
  | 1 => .ok .drawk
  | 2 => .ok .tglk
  | 3 => .ok .matchUop
  | 4 => .ok .endUop
  | _ => .error .funct

/-- One state register, its id checked. -/
def decode1 (mk : SReg → Instr) (f : BitVec 4) : Except Illegal Instr :=
  match decodeReg f with
  | .ok r => .ok (mk r)
  | .error e => .error e

/-- Two state registers. -/
def decode2 (mk : SReg → SReg → Instr) (f g : BitVec 4) : Except Illegal Instr :=
  match decodeReg f with
  | .ok r => decode1 (mk r) g
  | .error e => .error e

/-- Three state registers. -/
def decode3 (mk : SReg → SReg → SReg → Instr) (f g h : BitVec 4) : Except Illegal Instr :=
  match decodeReg f with
  | .ok r => decode2 (mk r) g h
  | .error e => .error e

/-- A "must be" field (R112 (c)). -/
def requireFixed (ok : Bool) (rest : Except Illegal Instr) : Except Illegal Instr :=
  if ok then rest else .error .fixedField

/-- Format H (R107): bit 7 `half`, bit 6 `bwd`. -/
def halfRound (half bwd : Bool) (s : SReg) (o : Ord) : Instr :=
  match half, bwd with
  | false, false => .hr1 s o
  | true, false => .hr2 s o
  | false, true => .bhr1 s o
  | true, true => .bhr2 s o

/-- The word's four nibbles, bits 15:12 (`op`), 11:8, 7:4 and 3:0, decoded format by format (R102 to R110). -/
def decodeNibbles (op n2 n1 n0 : BitVec 4) : Except Illegal Instr :=
  match op.toNat with
  | 0 => requireFixed (n2 == 0) (decodeFunct (16 * n1.toNat + n0.toNat))
  | 1 => requireFixed (n0 == 0) (decode2 .copy n2 n1)
  | 2 => decode3 .add n2 n1 n0
  | 3 => decode3 .sub n2 n1 n0
  | 4 => decode3 .xor n2 n1 n0
  | 5 => requireFixed (n0 == 0 && !n1[0]) (decode1 (fun s => .arx s (Rot.ofSel (n1.extractLsb' 2 2)) (Ord.ofBit n1[1])) n2)
  | 6 => requireFixed (n1 == 0xC && n0 == 0) (decode1 .uarx18 n2)
  | 7 => requireFixed (n0 == 0 && !n1[0]) (decode1 (fun s => halfRound n1[3] n1[2] s (Ord.ofBit n1[1])) n2)
  | 8 => decode1 (fun s => .fround s (16 * n1.toNat + n0.toNat)) n2
  | 9 => decode1 (fun s => .bround s (16 * n1.toNat + n0.toNat)) n2
  | 10 => requireFixed (n0 == 0 && n1.extractLsb' 0 3 == 0) (decode1 (fun s => .initc s (Fill.ofBit n1[3])) n2)
  | 11 => requireFixed (n1 == 0 && n0 == 0) (decode1 .inskey n2)
  | 12 => requireFixed (n1 == 0 && n0 == 0) (decode1 .inj n2)
  | 13 => requireFixed (n0 == 0 && n1.extractLsb' 0 3 == 0) (decode1 (fun s => .par s (Side.ofBit n1[3])) n2)
  | _ => .error .opcode

/-- The decoder of R118: the micro-op a word stands for, or why it is illegal. -/
def decode (u : Word16) : Except Illegal Instr :=
  decodeNibbles (u.extractLsb' 12 4) (u.extractLsb' 8 4) (u.extractLsb' 4 4) (u.extractLsb' 0 4)

/-! ### The encoder -/

/-- A word from its four nibbles. -/
def nibbles (op n2 n1 n0 : BitVec 4) : Word16 := op ++ n2 ++ n1 ++ n0

/-- A nibble from its four bits, bit 3 first. -/
def nibbleOfBits (b3 b2 b1 b0 : Bool) : BitVec 4 := BitVec.ofBool b3 ++ BitVec.ofBool b2 ++ BitVec.ofBool b1 ++ BitVec.ofBool b0

/-- Format A's `rsel`, `ord` and must-be-zero bit as the nibble 7:4 (R105). -/
def arxNibble (r : Rot) (o : Ord) : BitVec 4 := r.sel ++ BitVec.ofBool o.bit ++ 0#1

/-- The word of a micro-op (R102 to R110, R113). A round index above 255 has no word of its own: only its low eight
bits are taken, and such a term is not well-formed. -/
def encode : Instr → Word16
  | .drawk => 0x0001
  | .tglk => 0x0002
  | .matchUop => 0x0003
  | .endUop => 0x0004
  | .copy dst src => nibbles 1 dst.id src.id 0
  | .add z a b => nibbles 2 z.id a.id b.id
  | .sub z a b => nibbles 3 z.id a.id b.id
  | .xor z a b => nibbles 4 z.id a.id b.id
  | .arx s r o => nibbles 5 s.id (arxNibble r o) 0
  | .uarx18 s => nibbles 6 s.id 0xC 0
  | .hr1 s o => nibbles 7 s.id (nibbleOfBits false false o.bit false) 0
  | .hr2 s o => nibbles 7 s.id (nibbleOfBits true false o.bit false) 0
  | .bhr1 s o => nibbles 7 s.id (nibbleOfBits false true o.bit false) 0
  | .bhr2 s o => nibbles 7 s.id (nibbleOfBits true true o.bit false) 0
  | .fround s idx => nibbles 8 s.id (BitVec.ofNat 4 (idx / 16)) (BitVec.ofNat 4 idx)
  | .bround s idx => nibbles 9 s.id (BitVec.ofNat 4 (idx / 16)) (BitVec.ofNat 4 idx)
  | .initc s f => nibbles 10 s.id (nibbleOfBits f.bit false false false) 0
  | .inskey s => nibbles 11 s.id 0 0
  | .inj s => nibbles 12 s.id 0 0
  | .par s f => nibbles 13 s.id (nibbleOfBits f.bit false false false) 0

/-! ### The opcode map of R113, as the spec prints it -/

/-- One row of R113: `mask` selects the bits that must equal `matchBits`; `regs` are the low bit positions of its
state-register fields, each of which must hold an id of at most 8. -/
structure OpcodeRow where
  mnemonic : String
  matchBits : Word16
  mask : Word16
  regs : List Nat
  deriving DecidableEq, Repr

/-- The twenty rows of R113. -/
def opcodeMap : List OpcodeRow :=
  [⟨"DRAWK", 0x0001, 0xFFFF, []⟩, ⟨"TGLK", 0x0002, 0xFFFF, []⟩, ⟨"MATCH", 0x0003, 0xFFFF, []⟩, ⟨"END", 0x0004, 0xFFFF, []⟩] ++
  [⟨"COPY", 0x1000, 0xF00F, [8, 4]⟩, ⟨"ADD", 0x2000, 0xF000, [8, 4, 0]⟩, ⟨"SUB", 0x3000, 0xF000, [8, 4, 0]⟩,
   ⟨"XOR", 0x4000, 0xF000, [8, 4, 0]⟩, ⟨"ARX", 0x5000, 0xF01F, [8]⟩, ⟨"UARX18", 0x60C0, 0xF0FF, [8]⟩] ++
  [⟨"HR1", 0x7000, 0xF0DF, [8]⟩, ⟨"HR2", 0x7080, 0xF0DF, [8]⟩, ⟨"BHR1", 0x7040, 0xF0DF, [8]⟩, ⟨"BHR2", 0x70C0, 0xF0DF, [8]⟩] ++
  [⟨"FROUND", 0x8000, 0xF000, [8]⟩, ⟨"BROUND", 0x9000, 0xF000, [8]⟩, ⟨"INITC", 0xA000, 0xF07F, [8]⟩,
   ⟨"INSKEY", 0xB000, 0xF0FF, [8]⟩, ⟨"INJ", 0xC000, 0xF0FF, [8]⟩, ⟨"PAR", 0xD000, 0xF07F, [8]⟩]

/-- `u` is a word of the row: `u & mask = match` and every register id is at most 8 (R113, R112 (b)). -/
def OpcodeRow.matches (row : OpcodeRow) (u : Word16) : Bool :=
  u &&& row.mask == row.matchBits && row.regs.all fun lo => decide ((u.extractLsb' lo 4).toNat ≤ 8)

/-- What the decoder reads from an instruction whose bits, numbered as spec/opcode_table.json numbers them, are `w`:
every micro-op is one 16-bit word, moved as an integer (R62, R101), so bit `i` of the table is bit `i` of the word.
Bits above `nbits` are 0; a longer word is none. -/
def decodeTableWord (nbits w : Nat) : Option Instr :=
  let bits := w % 2 ^ nbits
  if bits < 2 ^ 16 then
    match decode (BitVec.ofNat 16 bits) with
    | .ok i => some i
    | .error _ => none
  else none

end Sys2Proof
end

