-- ==== Sys2Proof/Machine/TrialProgram.lean ====
section
/-! DEFINITION. The trial program (44_trial_kernel.md R210 to R213): the straight-line list of micro-ops a lane runs
once per trial, a function of `ROUNDS` and `MODE.TAILEN`. -/

namespace Sys2Proof.Machine

/-- `bw = FINT + FFRAC` (R212). -/
def CfgRegs.bwdRound (c : CfgRegs) : Nat := c.fint + c.ffrac.toNat

/-- `of = o(FINT + 1)` (R212). -/
def CfgRegs.fwdOrd (c : CfgRegs) : Ord := roundOrd (c.fint + 1)

/-- `oR = o(RINT + 1)` (R212). -/
def CfgRegs.totalOrd (c : CfgRegs) : Ord := roundOrd (c.rint + 1)

/-- `2·FINT + FFRAC ≤ 2·RINT + RFRAC` (R31, R242): where `TrialProgram` is defined (R210). -/
def CfgRegs.roundsLegal (c : CfgRegs) : Bool :=
  decide (2 * c.fint + c.ffrac.toNat ≤ 2 * c.rint + c.rfrac.toNat)

/-- The indices `lo, lo + 1, .., hi`; none when `lo > hi` (00_scope.md 5.2). -/
def ascending (lo hi : Nat) : List Nat := (List.range (hi + 1 - lo)).map (lo + ·)

/-- "both": the micro-op for the first register, then the same for the second (R211, D36). -/
def onBoth (mk : SReg → Instr) (p q : SReg) : List Instr := [mk p, mk q]

/-- A segment that is present only under a condition. -/
def segmentIf (present : Bool) (seg : List Instr) : List Instr := if present then seg else []

/-- Segments a to c: the initial states (SRC steps 1 to 3). -/
def segInit : List Instr :=
  [.initc .X .rnd, .drawk, .inskey .X, .copy .XR .X, .copy .XP .X, .inj .XP, .copy .XPR .XP]

/-- Segments d and e: forward to the sample point (SRC step 4). -/
def segToSample (c : CfgRegs) : List Instr :=
  (ascending 1 c.fint).flatMap (fun i => onBoth (fun r => .fround r i) .X .XP) ++
  segmentIf c.ffrac (onBoth (fun r => .hr1 r c.fwdOrd) .X .XP)

/-- Segment f: the forward sample (SRC step 5). -/
def segFwdSample : List Instr := [.xor .D .X .XP, .par .D .fwd]

/-- Segment j: the tail (SRC step 6). -/
def segTail : List Instr :=
  onBoth (fun r => .hr1 r .even) .X .XP ++ onBoth (fun r => .arx r .r13 .even) .X .XP ++ onBoth .uarx18 .X .XP

/-- Segments g to j: on to the end of the forward pipeline (SRC step 6). -/
def segToEnd (c : CfgRegs) : List Instr :=
  segmentIf c.ffrac (onBoth (fun r => .hr2 r c.fwdOrd) .X .XP) ++
  (ascending (c.bwdRound + 1) c.rint).flatMap (fun i => onBoth (fun r => .fround r i) .X .XP) ++
  segmentIf c.rfrac (onBoth (fun r => .hr1 r c.totalOrd) .X .XP) ++
  segmentIf c.tailen segTail

/-- Segments k to n: the sum, the key flip, and the difference (SRC steps 7 to 10). -/
def segSumFlip : List Instr :=
  [.add .SUM .X .XR, .add .SUMP .XP .XPR, .tglk, .inskey .XR, .inskey .XPR, .sub .M .SUM .XR, .sub .MP .SUMP .XPR]

/-- Segment o: the inverse of the tail (SRC step 11). -/
def segTailInverse : List Instr :=
  onBoth .uarx18 .M .MP ++ onBoth (fun r => .arx r .r13 .even) .M .MP ++ onBoth (fun r => .bhr2 r .even) .M .MP

/-- Segments o to r: the backward pass (SRC step 11). -/
def segBackward (c : CfgRegs) : List Instr :=
  segmentIf c.tailen segTailInverse ++
  segmentIf c.rfrac (onBoth (fun r => .bhr2 r c.totalOrd) .M .MP) ++
  (ascending (c.bwdRound + 1) c.rint).reverse.flatMap (fun i => onBoth (fun r => .bround r i) .M .MP) ++
  segmentIf c.ffrac (onBoth (fun r => .bhr1 r c.fwdOrd) .M .MP)

/-- Segments s and t: the backward sample, the comparison, the end (SRC steps 12, 13). -/
def segClose : List Instr := [.xor .D .M .MP, .par .D .bwd, .matchUop, .endUop]

/-- `TrialProgram(cfg)` as micro-ops (R211). -/
def trialProgram (c : CfgRegs) : List Instr :=
  segInit ++ segToSample c ++ segFwdSample ++ segToEnd c ++ segSumFlip ++ segBackward c ++ segClose

/-- `TrialProgram(cfg)`, "a finite list of micro-op words" (R210). -/
def trialWords (c : CfgRegs) : List Word16 := (trialProgram c).map encode

/-- The length `L` of the list as R213 gives it. -/
def trialLength (c : CfgRegs) : Nat :=
  20 + 2 * c.fint + 6 * c.ffrac.toNat + 4 * (c.rint - c.bwdRound) + 4 * c.rfrac.toNat + 12 * c.tailen.toNat

end Sys2Proof.Machine
end

