-- ==== Sys2Proof/Machine/Coordinator.lean ====
section
/-! DEFINITION. The trial coordinator (45_coordinator.md R240 to R252): START, scan and dispatch, join, bias,
classification and commit, progress. -/

namespace Sys2Proof.Machine

/-! ### START (R241 to R244) -/

/-- The START checks in their order (R242); `none` is a legal configuration. -/
def startRefusal (c : CfgRegs) (nlanes : Nat) : Option StartError :=
  if c.roundsLegal = false then some .rounds
  else if c.workers = 0 ∨ nlanes < c.workers then some .workers
  else if c.trials = 0 ∨ 2 ^ 40 < c.trials.toNat then some .trials
  else none

/-- The threshold is a NaN, below 0.0 or above 1.0 (R243). -/
def thresholdOutOfRange (t : Word64) : Bool := F64.isNaN t || F64.lt t F64.zero || F64.lt F64.one t

/-- The threshold in effect for the run (R243). -/
def effectiveThreshold (t : Word64) : Word64 := if thresholdOutOfRange t then defaultThreshold else t

/-- A lane at an accepted START (R244): idle, its counters, micro-PC and fault code cleared; what the host had put
in its scratch is unspecified from here on (R23, U1, log 2). -/
def Lane.atStart (L : Lane) (tick l : Nat) : Lane :=
  { L.forget tick l with lrun := .idle, lf := none, upc := 0, mc := 0, tc := 0 }

/-- A refused START (R242): `CFGERR` and `CFGCODE`, and nothing else. -/
def State.refuseStart (s : State) (e : StartError) : State :=
  { s with status := { s.status with cfgerr := true, cfgcode := some e } }

/-- An accepted START (R241, R243, R244): the threshold latch, the clears, `CIDX <- 0`, `CST <- C_SCAN`. -/
def State.acceptStart (s : State) : State where
  lanes := mapLanesFrom (fun l L => L.atStart s.inp.tick l) 0 s.lanes
  cfg := s.cfg
  status := { StatusReg.clear with thrdef := thresholdOutOfRange s.cfg.thr }
  res := ResultRegs.clear
  coord := { cst := .scan, cidx := 0, threff := effectiveThreshold s.cfg.thr }
  inp := s.inp

/-- START on an idle engine, one indivisible step (R241). -/
def State.start (s : State) : State :=
  match startRefusal s.cfg s.lanes.length with
  | some e => s.refuseStart e
  | none => s.acceptStart

/-! ### Scan and dispatch (R245, R246, R251) -/

/-- A dispatched lane (R246). -/
def Lane.dispatch (L : Lane) : Lane := { L with mc := 0, tc := 0, upc := 0, lf := none, lrun := .run }

/-- `TARGET.KW <- CIDX div 32; TARGET.KB <- CIDX mod 32` (R246). -/
def targetOf (cidx : BitVec 9) : Word := (cidx.extractLsb' 0 8).setWidth 32

/-- Dispatch: the first `W` lanes together (R246). -/
def State.dispatchBatch (s : State) : State :=
  { s with
    lanes := mapLanesFrom (fun l L => if l < s.cfg.workers then L.dispatch else L) 0 s.lanes
    cfg := { s.cfg with target := targetOf s.coord.cidx }
    coord := { s.coord with cst := .wait } }

/-- The run is complete (R245, R251). -/
def State.complete (s : State) : State :=
  { s with coord := { s.coord with cst := .idle }, status := { s.status with done := true } }

/-- The scan step, `CST = C_SCAN` (R245). -/
def State.scan (s : State) : State :=
  if s.coord.cidx.toNat = s.cfg.keyBitCount then s.complete
  else if mapBit s.cfg.skip s.coord.cidx.toNat then { s with coord := { s.coord with cidx := s.coord.cidx + 1 } }
  else s.dispatchBatch

/-! ### Join, bias, classification, commit (R247 to R249, R252) -/

/-- The lanes of the batch. -/
def State.batchLanes (s : State) : List Lane := s.lanes.take s.cfg.workers

/-- The join condition: every lane of the batch is `DONE` or `FAULT` (R247). -/
def State.joinReady (s : State) : Bool := s.batchLanes.all fun L => L.lrun == .done || L.lrun == .fault

/-- What a lane contributes: its match count, or zero when it faulted (R247, R306). -/
def Lane.contribution (L : Lane) : Word64 := if L.lrun = .done then L.mc else 0

/-- `matches` (R247). -/
def State.batchMatches (s : State) : Word64 := (s.batchLanes.map Lane.contribution).sum

/-- `nfault` (R247). -/
def State.batchFaults (s : State) : Nat := s.batchLanes.countP fun L => L.lrun == .fault

/-- `T = W · S` (R247). -/
def State.batchTrials (s : State) : Nat := s.cfg.workers * s.cfg.trials.toNat

/-- `Bias(m, T) = fsub(fdiv(fmul(2.0, f64(m)), f64(T)), 1.0)` (R248). -/
def biasOf (m T : Nat) : Word64 := F64.sub (F64.div (F64.mul F64.two (F64.ofNat m)) (F64.ofNat T)) F64.one

/-- `|bias| ≥ THREFF` and `|bias| > 0` (R249). -/
def isPnb (bias threff : Word64) : Bool := F64.le threff (F64.abs bias) && F64.lt F64.zero (F64.abs bias)

/-- `WKERRCNT <- min(WKERRCNT + nfault, 2^32 - 1)` (R247). -/
def saturatingCount (cnt : Word) (n : Nat) : Word := BitVec.ofNat 32 (min (cnt.toNat + n) (2 ^ 32 - 1))

/-- The error channel at the join (R247): nothing changes when no lane faulted. -/
def State.countFaults (s : State) : State :=
  if s.batchFaults = 0 then s
  else { s with status := { s.status with wkerr := true },
                res := { s.res with wkerrcnt := saturatingCount s.res.wkerrcnt s.batchFaults } }

/-- The result registers after a commit for `idx` (R249). -/
def ResultRegs.commit (r : ResultRegs) (idx : Nat) (count bias threff : Word64) : ResultRegs :=
  { r with
    matchCounts := r.matchCounts.setIfInBounds idx count
    bias := r.bias.setIfInBounds idx bias
    pnb := if isPnb bias threff then mapSet r.pnb idx else r.pnb
    npnb := if isPnb bias threff then r.npnb else mapSet r.npnb idx
    donemap := mapSet r.donemap idx }

/-- The lanes after the join: those of the batch are released (R247), and the scratch of every lane is unspecified
"after a batch ends" (R23, log 2). -/
def State.releaseBatch (s : State) : State :=
  s.mapLanes fun l L => if l < s.cfg.workers then (L.forget s.inp.tick l).release else L.forget s.inp.tick l

/-- Fatal (R252): `FATAL <- 1`, `CST <- C_IDLE`, every lane idle, nothing written for the index. -/
def State.fatal (s : State) : State :=
  { s.mapLanes (fun l L => (L.forget s.inp.tick l).release) with
    status := { s.status with fatal := true }
    coord := { s.coord with cst := .idle } }

/-- Commit the result of the index in work and go on to the progress step (R249). -/
def State.commit (s : State) (count : Word64) : State :=
  { s.releaseBatch with
    res := s.res.commit s.coord.cidx.toNat count (biasOf count.toNat s.batchTrials) s.coord.threff
    coord := { s.coord with cst := .prog } }

/-- The join and reduce step, `CST = C_WAIT` (R247), taken when the join condition holds. -/
def State.join (s : State) : Result :=
  if s.batchTrials = 0 then .fault .noTrials
  else if mapBit s.res.donemap s.coord.cidx.toNat then .next s.countFaults.fatal
  else .next (s.countFaults.commit s.batchMatches)

/-! ### Progress (R250) -/

/-- The progress step, `CST = C_PROG` (R250). -/
def State.countProgress (s : State) : State :=
  { s with
    res := { s.res with progress := s.res.progress + 1 }
    coord := { s.coord with cst := .scan, cidx := s.coord.cidx + 1 } }

/-- The coordinator's turn: in each control state exactly one kind of step is possible (R240); idle, or waiting with
the join condition not met, it takes none (R316). -/
def coordinatorStep (s : State) : Result :=
  match s.coord.cst with
  | .idle => .next s
  | .scan => .next s.scan
  | .wait => if s.joinReady then s.join else .next s
  | .prog => .next s.countProgress

end Sys2Proof.Machine
end

