-- ==== Sys2Proof/Machine/Arx.lean ====
section
/-! DEFINITION. ARX micro-steps, half-rounds and rounds (42_arx_rounds.md): ARX, UARX18, HR1, HR2, BHR1, BHR2, FROUND,
BROUND (R160 to R171). -/

namespace Sys2Proof.Machine

/-- One quartet `(a, b, c, d)` of state indices (R160). -/
structure Quartet where
  a : Fin 16
  b : Fin 16
  c : Fin 16
  d : Fin 16
  deriving DecidableEq, Repr

/-- The ordering tables `Q(o)` (R160). -/
def quartets : Ord → List Quartet
  | .odd => [⟨0, 4, 8, 12⟩, ⟨5, 9, 13, 1⟩, ⟨10, 14, 2, 6⟩, ⟨15, 3, 7, 11⟩]
  | .even => [⟨0, 1, 2, 3⟩, ⟨5, 6, 7, 4⟩, ⟨10, 11, 8, 9⟩, ⟨15, 12, 13, 14⟩]

/-- The one assignment that carries rotation `r`, on one quartet (R161). -/
def arxAssign (r : Rot) (S : State16) (q : Quartet) : State16 :=
  match r with
  | .r7 => S.set q.b (S[q.b] ^^^ rotl32 (S[q.a] + S[q.d]) 7)
  | .r9 => S.set q.c (S[q.c] ^^^ rotl32 (S[q.b] + S[q.a]) 9)
  | .r13 => S.set q.d (S[q.d] ^^^ rotl32 (S[q.c] + S[q.b]) 13)
  | .r18 => S.set q.a (S[q.a] ^^^ rotl32 (S[q.d] + S[q.c]) 18)

/-- `arx_step(S, r, o)` (R161): the assignment on each of the four quartets of `Q(o)`. -/
def arxStep (S : State16) (r : Rot) (o : Ord) : State16 := (quartets o).foldl (arxAssign r) S

/-- HR1: micro-steps 7, 9 (R166). -/
def hr1 (S : State16) (o : Ord) : State16 := arxStep (arxStep S .r7 o) .r9 o

/-- HR2: micro-steps 13, 18 (R167). -/
def hr2 (S : State16) (o : Ord) : State16 := arxStep (arxStep S .r13 o) .r18 o

/-- BHR1: micro-steps 18, 13 (R168). -/
def bhr1 (S : State16) (o : Ord) : State16 := arxStep (arxStep S .r18 o) .r13 o

/-- BHR2: micro-steps 9, 7 (R169). -/
def bhr2 (S : State16) (o : Ord) : State16 := arxStep (arxStep S .r9 o) .r7 o

/-- FROUND: micro-steps 7, 9, 13, 18 with the ordering of the index (R170). -/
def fround (S : State16) (idx : Nat) : State16 :=
  arxStep (arxStep (arxStep (arxStep S .r7 (roundOrd idx)) .r9 (roundOrd idx)) .r13 (roundOrd idx)) .r18 (roundOrd idx)

/-- BROUND: micro-steps 18, 13, 9, 7 with the ordering of the index (R171). -/
def bround (S : State16) (idx : Nat) : State16 :=
  arxStep (arxStep (arxStep (arxStep S .r18 (roundOrd idx)) .r13 (roundOrd idx)) .r9 (roundOrd idx)) .r7 (roundOrd idx)

/-- UARX18: nothing when `UMODE = 0`, the parameter `U_ALT` when it is 1 (R165). -/
def uarx18 (umode : Bool) (S : State16) : State16 := if umode then Config.uAlt S else S

/-- ARX s, r, ord (R164). -/
def execArx (r : SReg) (rot : Rot) (o : Ord) (s : State) : Result :=
  onLane s fun L => .next (retire s (L.putReg r (arxStep (L.reg r) rot o)))

/-- UARX18 s (R165). -/
def execUarx18 (r : SReg) (s : State) : Result :=
  onLane s fun L => .next (retire s (L.putReg r (uarx18 s.cfg.umode (L.reg r))))

/-- HR1 s, ord (R166). -/
def execHr1 (r : SReg) (o : Ord) (s : State) : Result :=
  onLane s fun L => .next (retire s (L.putReg r (hr1 (L.reg r) o)))

/-- HR2 s, ord (R167). -/
def execHr2 (r : SReg) (o : Ord) (s : State) : Result :=
  onLane s fun L => .next (retire s (L.putReg r (hr2 (L.reg r) o)))

/-- BHR1 s, ord (R168). -/
def execBhr1 (r : SReg) (o : Ord) (s : State) : Result :=
  onLane s fun L => .next (retire s (L.putReg r (bhr1 (L.reg r) o)))

/-- BHR2 s, ord (R169). -/
def execBhr2 (r : SReg) (o : Ord) (s : State) : Result :=
  onLane s fun L => .next (retire s (L.putReg r (bhr2 (L.reg r) o)))

/-- FROUND s, idx (R170): only bit 0 of the index affects the result. -/
def execFround (r : SReg) (idx : Nat) (s : State) : Result :=
  onLane s fun L => .next (retire s (L.putReg r (fround (L.reg r) idx)))

/-- BROUND s, idx (R171). -/
def execBround (r : SReg) (idx : Nat) (s : State) : Result :=
  onLane s fun L => .next (retire s (L.putReg r (bround (L.reg r) idx)))

end Sys2Proof.Machine
end

