-- ==== Sys2Proof/Machine/StateOps.lean ====
section
/-! DEFINITION. The state-wide micro-ops of 41_state_ops.md: COPY, ADD, SUB, XOR (R140 to R143), INITC, INSKEY, DRAWK
(R144 to R146). -/

namespace Sys2Proof.Machine

/-- `z[i] = a[i] + b[i] mod 2^32` (R141). -/
def addState (a b : State16) : State16 := stateOf fun i => a[i] + b[i]

/-- `z[i] = a[i] - b[i] mod 2^32` (R142). -/
def subState (a b : State16) : State16 := stateOf fun i => a[i] - b[i]

/-- `z[i] = a[i] ^ b[i]` (R143). -/
def xorState (a b : State16) : State16 := stateOf fun i => a[i] ^^^ b[i]

/-- The eight key words DRAWK makes: eight draws in 256-bit mode, four replicated in 128-bit mode (R146). -/
def drawKey (key128 : Bool) (l : Nat) (L : Lane) : Option KeyWords × Lane :=
  if key128 then
    match drawWords l 4 L with
    | (some ks, L') => (some (ks ++ ks), L')
    | (none, L') => (none, L')
  else drawWords l 8 L

/-- COPY dst, src (R140). -/
def execCopy (dst src : SReg) (s : State) : Result :=
  onLane s fun L => .next (retire s (L.putReg dst (L.reg src)))

/-- ADD z, a, b (R141): all right-hand sides are read before any word is written. -/
def execAdd (z a b : SReg) (s : State) : Result :=
  onLane s fun L => .next (retire s (L.putReg z (addState (L.reg a) (L.reg b))))

/-- SUB z, a, b (R142): the first source is the minuend. -/
def execSub (z a b : SReg) (s : State) : Result :=
  onLane s fun L => .next (retire s (L.putReg z (subState (L.reg a) (L.reg b))))

/-- XOR z, a, b (R143). -/
def execXor (z a b : SReg) (s : State) : Result :=
  onLane s fun L => .next (retire s (L.putReg z (xorState (L.reg a) (L.reg b))))

/-- INITC s, RND and INITC s, FIX (R144): with `RND` a failing draw raises `RngFail` and no word of `s` is written. -/
def execInitc (r : SReg) (f : Fill) (s : State) : Result :=
  onLane s fun L => .next (
    match f with
    | .fix => retire s (L.putReg r (initConstIv s.cfg.keyMode s.cfg.ivfix (L.reg r)))
    | .rnd =>
      match drawWords s.inp.issue.lane 4 L with
      | (some iv, L') => retire s (L'.putReg r (initConstIv s.cfg.keyMode iv (L'.reg r)))
      | (none, L') => takeLaneFault s L' .rngFail)

/-- INSKEY s (R145). -/
def execInskey (r : SReg) (s : State) : Result :=
  onLane s fun L => .next (retire s (L.putReg r (insertKey (L.reg r) L.k)))

/-- DRAWK (R146): a failing draw raises `RngFail` with `K` unchanged. -/
def execDrawk (s : State) : Result :=
  onLane s fun L => .next (
    match drawKey s.cfg.key128 s.inp.issue.lane L with
    | (some k, L') => retire s { L' with k := k }
    | (none, L') => takeLaneFault s L' .rngFail)

end Sys2Proof.Machine
end

