-- ==== Sys2Proof/Machine/Sampler.lean ====
section
/-! DEFINITION. The sampler micro-ops of 43_sampler_ops.md: INJ, PAR, TGLK, MATCH, END (R190 to R194). -/

namespace Sys2Proof.Machine

/-- The key after TGLK (R192): one word toggled, and its replica in 128-bit mode. -/
def toggleTarget (c : CfgRegs) (K : KeyWords) : KeyWords :=
  if c.key128 then toggleKeyBit (toggleKeyBit K c.kw c.kb) (c.kw + 4) c.kb else toggleKeyBit K c.kw c.kb

/-- 128-bit mode and `TARGET.KW ≥ 4` (R192, R304). -/
def badTarget (c : CfgRegs) : Bool := c.key128 && decide (4 ≤ c.kw.val)

/-- The lane after MATCH (R193). -/
def Lane.countMatch (L : Lane) : Lane := if L.flagsMatch then { L with mc := L.mc + 1 } else L

/-- The lane after END (R194): `TC <- TC + 1`; from the trial program, on a running lane, `upc <- 0` and
`LRUN <- DONE` when the new `TC` is `S`. -/
def Lane.endTrial (L : Lane) (trials : Word64) (issue : Issue) : Lane :=
  let T : Lane := { L with tc := L.tc + 1 }
  match issue with
  | .uopPort => T
  | .program _ =>
    if L.lrun = .run then { T with upc := 0, lrun := if L.tc + 1 = trials then .done else .run } else T

/-- INJ s (R190): `s[w] <- s[w] ^ IDM[w]`. -/
def execInj (r : SReg) (s : State) : Result :=
  onLane s fun L => .next (retire s (L.putReg r (xorState (L.reg r) s.cfg.idm)))

/-- PAR.F s and PAR.B s (R191). -/
def execPar (r : SReg) (side : Side) (s : State) : Result :=
  onLane s fun L => .next (retire s (L.putFlag side (maskedParity s.cfg.omsk (L.reg r))))

/-- TGLK (R192): `BadTarget` when the mode is 128-bit and `KW ≥ 4`, with `K` unchanged. -/
def execTglk (s : State) : Result :=
  onLane s fun L => .next (
    if badTarget s.cfg then takeLaneFault s L .badTarget
    else retire s { L with k := toggleTarget s.cfg L.k })

/-- MATCH (R193). -/
def execMatch (s : State) : Result :=
  onLane s fun L => .next (retire s L.countMatch)

/-- END (R194), which sets `upc` and `LRUN` itself. -/
def execEnd (s : State) : Result :=
  onLane s fun L => .next (s.putLane s.inp.issue.lane (L.endTrial s.cfg.trials s.inp.issue))

end Sys2Proof.Machine
end

