-- ==== Sys2Proof/Machine/Dispatch.lean ====
section
/-! DEFINITION. The dispatch: one arm per micro-op, each one direct call of its meaning. -/

namespace Sys2Proof.Machine

def exec (i : Instr) (s : State) : Host.Outcome State Fault Refusal :=
  match i with
  | .drawk => Sys2Proof.Machine.execDrawk s
  | .tglk => Sys2Proof.Machine.execTglk s
  | .matchUop => Sys2Proof.Machine.execMatch s
  | .endUop => Sys2Proof.Machine.execEnd s
  | .copy dst src => Sys2Proof.Machine.execCopy dst src s
  | .add z a b => Sys2Proof.Machine.execAdd z a b s
  | .sub z a b => Sys2Proof.Machine.execSub z a b s
  | .xor z a b => Sys2Proof.Machine.execXor z a b s
  | .arx r rot o => Sys2Proof.Machine.execArx r rot o s
  | .uarx18 r => Sys2Proof.Machine.execUarx18 r s
  | .hr1 r o => Sys2Proof.Machine.execHr1 r o s
  | .hr2 r o => Sys2Proof.Machine.execHr2 r o s
  | .bhr1 r o => Sys2Proof.Machine.execBhr1 r o s
  | .bhr2 r o => Sys2Proof.Machine.execBhr2 r o s
  | .fround r idx => Sys2Proof.Machine.execFround r idx s
  | .bround r idx => Sys2Proof.Machine.execBround r idx s
  | .initc r f => Sys2Proof.Machine.execInitc r f s
  | .inskey r => Sys2Proof.Machine.execInskey r s
  | .inj r => Sys2Proof.Machine.execInj r s
  | .par r side => Sys2Proof.Machine.execPar r side s

end Sys2Proof.Machine
end

