-- ==== Sys2Proof/Machine/LaneStep.lean ====
section
/-! DEFINITION. Executing a micro-op word, and the lane step rule (R214, R303, R305). -/

namespace Sys2Proof.Machine

/-- Execute the word `u` from where `issue` says: a legal word by its micro-op's rule; an illegal one raises
`IllegalUop`, decided from the word alone (R112, R303, R308). -/
def runWord (u : Word16) (s : State) : Result :=
  match decode u with
  | .ok i => exec i s
  | .error _ => onLane s fun L => .next (takeLaneFault s L .illegalUop)

/-- The turn of lane `l` (R214): a lane with `LRUN = RUN` executes `P[upc]`; any other takes no step (R316). -/
def laneStep (l : Nat) (s : State) : Result :=
  match s.lanes[l]? with
  | none => .next s
  | some L =>
    if L.lrun ≠ .run then .next s
    else if s.cfg.roundsLegal = false then .fault .noTrialProgram
    else
      match (trialWords s.cfg)[L.upc.toNat]? with
      | some u => runWord u (s.issuedFrom (.program l))
      | none => .fault .upcOutOfRange

end Sys2Proof.Machine
end

