-- ==== Sys2Proof/Machine/HostPort.lean ====
section
/-! DEFINITION. The register map and the host port (20_memory.md R60 to R72): which register stands at which word
address (R61), `RegRead` and `RegWrite`, and the host's turn. -/

namespace Sys2Proof.Machine

/-- What stands at a word address of the register map (R61), each under its own name. -/
inductive MapReg where
  | ctrl | status | mode | rounds | nw | sLo | sHi | thrLo | thrHi | progress | target | uop | wkerrcnt
  | idm (w : Fin 16)
  | omsk (w : Fin 16)
  | skip (k : Fin 8)
  | pnb (k : Fin 8)
  | npnb (k : Fin 8)
  | donemap (k : Fin 8)
  | ivfix (j : Fin 4)
  | l0sr (r : SReg) (i : Fin 16)
  | l0k (j : Fin 8)
  | l0flags | l0mcLo | l0mcHi | l0tcLo | l0tcHi | l0stat
  | biasLo (idx : Fin 256)
  | biasHi (idx : Fin 256)
  | matchesLo (idx : Fin 256)
  | matchesHi (idx : Fin 256)
  /-- reserved or unmapped (R66) -/
  | reserved
  deriving DecidableEq, Repr

/-- Addresses 0x000 to 0x00F (R61). -/
def mapLow (n : Nat) : MapReg :=
  match n with
  | 0x000 => .ctrl
  | 0x001 => .status
  | 0x002 => .mode
  | 0x003 => .rounds
  | 0x004 => .nw
  | 0x005 => .sLo
  | 0x006 => .sHi
  | 0x007 => .thrLo
  | 0x008 => .thrHi
  | 0x009 => .progress
  | 0x00A => .target
  | 0x00B => .uop
  | 0x00C => .wkerrcnt
  | _ => .reserved

/-- Addresses 0x198 to 0x19D (R61), counted from 0x198. -/
def mapLane0 (n : Nat) : MapReg :=
  match n with
  | 0 => .l0flags
  | 1 => .l0mcLo
  | 2 => .l0mcHi
  | 3 => .l0tcLo
  | 4 => .l0tcHi
  | 5 => .l0stat
  | _ => .reserved

/-- The state-register window (R61): `0x100 + 16·r + i`, counted from 0x100. -/
def mapWindow (n : Nat) : MapReg :=
  match SReg.ofId (n / 16) with
  | some r => .l0sr r (Fin.ofNat 16 n)
  | none => .reserved

/-- A pair of words per index (R61, R62): the low word at the even offset. -/
def mapPair (lo hi : Fin 256 → MapReg) (n : Nat) : MapReg :=
  if n % 2 = 0 then lo (Fin.ofNat 256 (n / 2)) else hi (Fin.ofNat 256 (n / 2))

/-- The register map of R61. -/
def regAt (a : BitVec 11) : MapReg :=
  let n := a.toNat
  if n < 0x010 then mapLow n
  else if n < 0x020 then .idm (Fin.ofNat 16 n)
  else if n < 0x030 then .omsk (Fin.ofNat 16 n)
  else if n < 0x038 then .skip (Fin.ofNat 8 n)
  else if n < 0x040 then .pnb (Fin.ofNat 8 n)
  else if n < 0x048 then .npnb (Fin.ofNat 8 n)
  else if n < 0x050 then .donemap (Fin.ofNat 8 n)
  else if n < 0x054 then .ivfix (Fin.ofNat 4 n)
  else if n < 0x100 then .reserved
  else if n < 0x190 then mapWindow (n - 0x100)
  else if n < 0x198 then .l0k (Fin.ofNat 8 n)
  else if n < 0x200 then mapLane0 (n - 0x198)
  else if n < 0x400 then mapPair .biasLo .biasHi (n - 0x200)
  else if n < 0x600 then mapPair .matchesLo .matchesHi (n - 0x400)
  else .reserved

/-! ### Register views -/

/-- The 4-bit code of `CFGCODE` (R40). -/
def StartError.code : Option StartError → BitVec 4
  | none => 0
  | some .rounds => 1
  | some .workers => 2
  | some .trials => 3

/-- The 2-bit code of `LRUN` in `L0STAT` (R61). -/
def LRun.code : LRun → BitVec 2
  | .idle => 0
  | .run => 1
  | .done => 2
  | .fault => 3

/-- `STATUS` as the host reads it (R40). -/
def State.statusWord (s : State) : Word :=
  0#16 ++ LaneFault.code s.status.uopcode ++ StartError.code s.status.cfgcode ++ 0#1 ++ BitVec.ofBool s.status.uoperr ++
  BitVec.ofBool s.status.thrdef ++ BitVec.ofBool s.status.fatal ++ BitVec.ofBool s.status.wkerr ++
  BitVec.ofBool s.status.cfgerr ++ BitVec.ofBool s.status.done ++ BitVec.ofBool s.busy

/-- `L0STAT` (R61): `LF` 3:0, `LRUN` 5:4, `upc` 27:16. -/
def Lane.statWord (L : Lane) : Word := 0#4 ++ L.upc ++ 0#10 ++ L.lrun.code ++ LaneFault.code L.lf

/-- `L0FLAGS` (R61): bit 0 `FP`, bit 1 `BP`. -/
def Lane.flagsWord (L : Lane) : Word := 0#30 ++ BitVec.ofBool L.bp ++ BitVec.ofBool L.fp

/-- A read of lane 0 through `f`. -/
def State.lane0 (s : State) (f : Lane → Word) : Word :=
  match s.lanes with
  | L :: _ => f L
  | [] => Config.windowRead s.inp.tick

/-- A window read (R71): the current value while idle, an unspecified word while `BUSY = 1` (U2). -/
def State.window (s : State) (f : Lane → Word) : Word :=
  if s.busy then Config.windowRead s.inp.tick else s.lane0 f

/-- `RegRead`, by register (R61, R66): write-only registers and reserved addresses read 0. -/
def readReg (s : State) : MapReg → Word
  | .ctrl => 0
  | .status => s.statusWord
  | .mode => s.cfg.mode
  | .rounds => s.cfg.rounds
  | .nw => s.cfg.nw
  | .sLo => lowWord s.cfg.trials
  | .sHi => highWord s.cfg.trials
  | .thrLo => lowWord s.cfg.thr
  | .thrHi => highWord s.cfg.thr
  | .progress => s.res.progress
  | .target => s.cfg.target
  | .uop => 0
  | .wkerrcnt => s.res.wkerrcnt
  | .idm w => s.cfg.idm[w]
  | .omsk w => s.cfg.omsk[w]
  | .skip k => s.cfg.skip[k]
  | .pnb k => s.res.pnb[k]
  | .npnb k => s.res.npnb[k]
  | .donemap k => s.res.donemap[k]
  | .ivfix j => s.cfg.ivfix[j]
  | .l0sr r i => s.window fun L => (L.reg r)[i]
  | .l0k j => s.window fun L => L.k[j]
  | .l0flags => s.window Lane.flagsWord
  | .l0mcLo => s.window fun L => lowWord L.mc
  | .l0mcHi => s.window fun L => highWord L.mc
  | .l0tcLo => s.window fun L => lowWord L.tc
  | .l0tcHi => s.window fun L => highWord L.tc
  | .l0stat => s.lane0 Lane.statWord
  | .biasLo idx => lowWord s.res.bias[idx]
  | .biasHi idx => highWord s.res.bias[idx]
  | .matchesLo idx => lowWord s.res.matchCounts[idx]
  | .matchesHi idx => highWord s.res.matchCounts[idx]
  | .reserved => 0

/-- `RegRead(a)` (R64, R65): no side effect. -/
def regRead (s : State) (a : BitVec 11) : Word := readReg s (regAt a)

/-! ### Writes -/

/-- A configuration write while idle: what was written, masked to the named fields (R65, R66). -/
def CfgRegs.write (c : CfgRegs) (m : MapReg) (v : Word) : CfgRegs :=
  match m with
  | .mode => { c with mode := v &&& 0x00000007 }
  | .rounds => { c with rounds := v &&& 0x0000FFFF }
  | .nw => { c with nw := v &&& 0x000001FF }
  | .sLo => { c with trials := withLowWord c.trials v }
  | .sHi => { c with trials := withHighWord c.trials v }
  | .thrLo => { c with thr := withLowWord c.thr v }
  | .thrHi => { c with thr := withHighWord c.thr v }
  | .target => { c with target := v &&& 0x000000FF }
  | .idm w => { c with idm := c.idm.set w v }
  | .omsk w => { c with omsk := c.omsk.set w v }
  | .skip k => { c with skip := c.skip.set k v }
  | .ivfix j => { c with ivfix := c.ivfix.set j v }
  | .ctrl | .status | .progress | .uop | .wkerrcnt | .pnb _ | .npnb _ | .donemap _ | .l0sr _ _ | .l0k _ | .l0flags
  | .l0mcLo | .l0mcHi | .l0tcLo | .l0tcHi | .l0stat | .biasLo _ | .biasHi _ | .matchesLo _ | .matchesHi _
  | .reserved => c

/-- A lane-0 window write while idle (R71): `L0FLAGS` takes bits 1:0; `L0STAT` is read-only. -/
def Lane.writeWindow (L : Lane) (m : MapReg) (v : Word) : Lane :=
  match m with
  | .l0sr r i => L.putReg r ((L.reg r).set i v)
  | .l0k j => { L with k := L.k.set j v }
  | .l0flags => { L with fp := getBit v 0, bp := getBit v 1 }
  | .l0mcLo => { L with mc := withLowWord L.mc v }
  | .l0mcHi => { L with mc := withHighWord L.mc v }
  | .l0tcLo => { L with tc := withLowWord L.tc v }
  | .l0tcHi => { L with tc := withHighWord L.tc v }
  | .ctrl | .status | .mode | .rounds | .nw | .sLo | .sHi | .thrLo | .thrHi | .progress | .target | .uop | .wkerrcnt
  | .idm _ | .omsk _ | .skip _ | .pnb _ | .npnb _ | .donemap _ | .ivfix _ | .l0stat | .biasLo _ | .biasHi _
  | .matchesLo _ | .matchesHi _ | .reserved => L

/-- Lane 0 through `f`; the lanes above it have no window (R71). -/
def State.onLane0 (s : State) (f : Lane → Lane) : State :=
  match s.lanes with
  | L :: rest => { s with lanes := f L :: rest }
  | [] => s

/-- A `CTRL` write while idle (R68): START before CLR. -/
def State.writeCtrl (s : State) (v : Word) : State :=
  if getBit v 0 then s.start else if getBit v 1 then s.clearStatus else s

/-- A `UOP` write while idle (R72): execute bits 15:0 once on lane 0. -/
def State.writeUop (s : State) (v : Word) : Result := runWord (v.extractLsb' 0 16) (s.issuedFrom .uopPort)

/-- `RegWrite`, by register, while `STATUS.BUSY = 0`. Read-only, reserved and unmapped addresses ignore it (R66). -/
def writeRegIdle (s : State) (m : MapReg) (v : Word) : Result :=
  match m with
  | .ctrl => .next (s.writeCtrl v)
  | .uop => s.writeUop v
  | .l0sr _ _ | .l0k _ | .l0flags | .l0mcLo | .l0mcHi | .l0tcLo | .l0tcHi => .next (s.onLane0 fun L => L.writeWindow m v)
  | .mode | .rounds | .nw | .sLo | .sHi | .thrLo | .thrHi | .target | .idm _ | .omsk _ | .skip _ | .ivfix _ =>
    .next { s with cfg := s.cfg.write m v }
  | .status | .progress | .wkerrcnt | .pnb _ | .npnb _ | .donemap _ | .l0stat | .biasLo _ | .biasHi _ | .matchesLo _
  | .matchesHi _ | .reserved => .next s

/-- `RegWrite(a, v)` (R61 to R72): while `BUSY = 1` every write is dropped, the configuration's (R70), the window's
(R71), `UOP`'s (R72) and `CTRL`'s (R68); the others are ignored at any time (R66). -/
def regWrite (s : State) (a : BitVec 11) (v : Word) : Result :=
  if s.busy then .next s else writeRegIdle s (regAt a) v

/-! ### The host's turn -/

/-- The host's next access, and the state with it taken: the next one State holds, else a free one (log 6). -/
def State.takeAccess (s : State) : Option HostAccess × State :=
  match s.inp.hostq with
  | h :: rest => (some h, { s with inp := { s.inp with hostq := rest } })
  | [] => ((Config.hostAccess s.inp.tick).map .reg, s)

/-- One access of the host, an indivisible step (R64). -/
def hostAccess (s : State) : HostAccess → Result
  | .narrow => .refused .narrowAccess
  | .reg (.read a) => .next { s with inp := { s.inp with rdata := regRead s a } }
  | .reg (.write a v) => regWrite s a v

/-- The host's turn; a host with no access to make does nothing. -/
def hostStep (s : State) : Result :=
  match s.takeAccess with
  | (some h, t) => hostAccess t h
  | (none, t) => .next t

/-! ### A platform's byte-addressed bus (R60, R62, R67); no rule of the engine depends on it (log 28) -/

/-- The byte address at which a platform shows word `a`: "the byte offset of word `a` is `4·a`", from `BASE`. -/
def busAddress (a : BitVec 11) : Nat := Config.base + 4 * a.toNat

/-- The byte of a word at byte offset `k` (0 to 3) for a byte order. -/
def busByte (e : Endian) (w : Word) (k : Fin 4) : BitVec 8 :=
  match e with
  | .little => w.extractLsb' (8 * k.val) 8
  | .big => w.extractLsb' (24 - 8 * k.val) 8

end Sys2Proof.Machine
end

