-- ==== Sys2Proof/Machine/Turn.lean ====
section
/-! DEFINITION. Whose turn it is (R20, R75, U7), the turn of each agent, and how a micro-op word is put where the next
step fetches it (log 10). `Step.lean` only calls what stands here. -/

namespace Sys2Proof.Machine

/-- The agent that takes the next step: the next turn State holds, else a free value (log 5). -/
def State.nextAgent (s : State) : Agent :=
  match s.inp.sched with
  | a :: _ => a
  | [] => Config.turn s.inp.tick

/-- The state with the turn taken: the turn is used up and one more step counted. -/
def State.takeTurn (s : State) : State :=
  { s with inp := { s.inp with sched := s.inp.sched.tail, tick := s.inp.tick + 1 } }

/-- The turn of an agent: one indivisible step of it, if one is enabled (R75, R316). -/
def agentStep (a : Agent) (s : State) : Result :=
  match a with
  | .host => hostStep s
  | .coordinator => coordinatorStep s
  | .lane l => laneStep l s
  | .reset => .next s.resetEvent

/-- One step of the machine: whose turn it is takes it. -/
def stepOnce (s : State) : Result := agentStep s.nextAgent s.takeTurn

/-- The word address of `UOP` (R61). -/
def uopAddress : BitVec 11 := 0x00B

/-- The engine idle, the next turn the host's, and the host's next access the write of a micro-op word to `UOP`: the
only way a word from outside is executed (R67, R72, R341). Bits above `nbits` are 0. -/
def State.placeUop (s : State) (nbits w : Nat) : State :=
  { s with
    coord := { s.coord with cst := .idle }
    inp := { s.inp with
      sched := .host :: s.inp.sched
      hostq := .reg (.write uopAddress (BitVec.ofNat 32 (w % 2 ^ nbits % 2 ^ 16))) :: s.inp.hostq } }

end Sys2Proof.Machine
end

