-- ==== Sys2Proof/Machine/Step.lean ====
section
/-! DEFINITION. The step of the machine, and the placing of a micro-op word for it. -/

namespace Sys2Proof.Machine

/-- One step (R75): the agent whose turn it is takes one indivisible step. -/
def step (s : State) : Host.Outcome State Fault Refusal := stepOnce s

/-- `s` with the micro-op word `w` where the very next step fetches it: a write to `UOP` at the head of the host's
pending accesses, on the host's turn, with the engine idle (log 10). -/
def State.withFetchWord (s : State) (nbits w : Nat) : State := s.placeUop nbits w

end Sys2Proof.Machine
end

