-- ==== Sys2Proof/Machine/Trial.lean ====
section
/-! DEFINITION. One trial as a function of the configuration and the words drawn (44_trial_kernel.md R218), written as
R218 writes it and not as the list of micro-ops; and the quarter-round of R163. -/

namespace Sys2Proof.Machine

/-- `X0`: constants at 0, 5, 10, 15, the IV at 6..9, `K[0..3]` at 1..4, `K[4..7]` at 11..14 (R22, R218). -/
def initialState (m : KeyMode) (iv : Vector Word 4) (K : KeyWords) : State16 :=
  #v[Config.constants m 0, K[0], K[1], K[2],
     K[3], Config.constants m 1, iv[0], iv[1],
     iv[2], iv[3], Config.constants m 2, K[4],
     K[5], K[6], K[7], Config.constants m 3]

/-- `f` when its segment is present, identity otherwise. -/
def applyIf (present : Bool) (f : State16 → State16) (S : State16) : State16 := if present then f S else S

/-- `Fa`: the forward pipeline up to the sample point (R218, segments d and e). -/
def forwardToSample (c : CfgRegs) (S : State16) : State16 :=
  applyIf c.ffrac (hr1 · c.fwdOrd) ((ascending 1 c.fint).foldl fround S)

/-- `Tail(S) = UARX18(ARX(HR1(S, EVEN), 13, EVEN))` (R218). -/
def tail (umode : Bool) (S : State16) : State16 := uarx18 umode (arxStep (hr1 S .even) .r13 .even)

/-- `TailInv(S) = BHR2(ARX(UARX18(S), 13, EVEN), EVEN)` (R218). -/
def tailInverse (umode : Bool) (S : State16) : State16 := bhr2 (arxStep (uarx18 umode S) .r13 .even) .even

/-- `Fb`: from the sample point to the end of the forward pipeline (R218, segments g to j). -/
def forwardToEnd (c : CfgRegs) (S : State16) : State16 :=
  applyIf c.tailen (tail c.umode) <|
  applyIf c.rfrac (hr1 · c.totalOrd) <|
  (ascending (c.bwdRound + 1) c.rint).foldl fround <|
  applyIf c.ffrac (hr2 · c.fwdOrd) S

/-- `Bb`: the inverse list of `Fb` (R218, segments o to r). -/
def backward (c : CfgRegs) (S : State16) : State16 :=
  applyIf c.ffrac (bhr1 · c.fwdOrd) <|
  (ascending (c.bwdRound + 1) c.rint).reverse.foldl bround <|
  applyIf c.rfrac (bhr2 · c.totalOrd) <|
  applyIf c.tailen (tailInverse c.umode) S

/-- The two parities of a trial (R218). -/
structure Parities where
  fp : Bool
  bp : Bool
  deriving DecidableEq, Repr

/-- `Trial(cfg, iv, k)` (R218); `K` is the key after the draw, replicated in 128-bit mode. -/
def trial (c : CfgRegs) (iv : Vector Word 4) (K : KeyWords) : Parities :=
  let x0 := initialState c.keyMode iv K
  let x0' := xorState x0 c.idm
  let xf := forwardToEnd c (forwardToSample c x0)
  let xf' := forwardToEnd c (forwardToSample c x0')
  let flipped := toggleTarget c K
  let m0 := subState (addState xf x0) (insertKey x0 flipped)
  let m0' := subState (addState xf' x0') (insertKey x0' flipped)
  { fp := maskedParity c.omsk (xorState (forwardToSample c x0) (forwardToSample c x0'))
    bp := maskedParity c.omsk (xorState (backward c m0) (backward c m0')) }

/-- The four-line block of R161 on four words (R163): a quarter-round. -/
def quarterRound (a b c d : Word) : Word × Word × Word × Word :=
  let b := b ^^^ rotl32 (a + d) 7
  let c := c ^^^ rotl32 (b + a) 9
  let d := d ^^^ rotl32 (c + b) 13
  let a := a ^^^ rotl32 (d + c) 18
  (a, b, c, d)

/-- `T(S)[4·p + q] = S[4·q + p]` (R172 (f)). -/
def transpose (S : State16) : State16 := stateOf fun i => S[4 * (i.val % 4) + i.val / 4]

end Sys2Proof.Machine
end

