-- ==== Sys2Proof/Safety.lean ====
section
/-! DEFINITION. The terms the claims are stated in: what a micro-op may change (its frame), the answers a lane's RNG
source has in store, what a lane fault leaves, and the invariant of the machine. Nothing here is part of the step. -/

namespace Sys2Proof

/-- The state register a micro-op writes, if any (R140 to R145, R164 to R171, R190). -/
def Instr.dest : Instr → Option SReg
  | .copy d _ => some d
  | .add z _ _ | .sub z _ _ | .xor z _ _ => some z
  | .arx r _ _ | .uarx18 r | .hr1 r _ | .hr2 r _ | .bhr1 r _ | .bhr2 r _ | .fround r _ | .bround r _ => some r
  | .initc r _ | .inskey r | .inj r => some r
  | .drawk | .tglk | .matchUop | .endUop | .par _ _ => none

/-- The micro-ops that draw (R150). -/
def Instr.draws : Instr → Bool
  | .drawk | .initc _ .rnd => true
  | .tglk | .matchUop | .endUop | .copy _ _ | .add _ _ _ | .sub _ _ _ | .xor _ _ _ | .arx _ _ _ | .uarx18 _ | .hr1 _ _
  | .hr2 _ _ | .bhr1 _ _ | .bhr2 _ _ | .fround _ _ | .bround _ _ | .initc _ .fix | .inskey _ | .inj _ | .par _ _ => false

namespace Machine

/-! ### Frames -/

/-- Everything but lane `l` is as before. The six fields of State are the whole of it, so this leaves out nothing:
configuration, status, results, the coordinator, the model's own inputs, and every other lane. -/
structure OnlyLane (l : Nat) (s t : State) : Prop where
  cfg : t.cfg = s.cfg
  status : t.status = s.status
  res : t.res = s.res
  coord : t.coord = s.coord
  inp : t.inp = s.inp
  count : t.lanes.length = s.lanes.length
  others : ∀ m, m ≠ l → t.lanes[m]? = s.lanes[m]?

/-- The micro-PC after a completed micro-op other than a running lane's END (R27, R72). -/
def upcAfter (i : Issue) (upc : BitVec 12) : BitVec 12 :=
  match i with
  | .uopPort => upc
  | .program _ => upc + 1

/-- A micro-op other than END completed on the issuing lane, which was `L` and is now `L'`: no other part of the machine
changed, the micro-PC is as R27 and R72 say, and the run state and fault code of the lane are as before. -/
structure Completed (s t : State) (L L' : Lane) : Prop where
  only : OnlyLane s.inp.issue.lane s t
  lane : t.lanes[s.inp.issue.lane]? = some L'
  upc : L'.upc = upcAfter s.inp.issue L.upc
  lrun : L'.lrun = L.lrun
  lf : L'.lf = L.lf

/-- The state registers other than `r` are as before. -/
def KeepsRegsBut (r : SReg) (L L' : Lane) : Prop := ∀ q, q ≠ r → L'.reg q = L.reg q

/-- The state registers are as before. -/
def KeepsRegs (L L' : Lane) : Prop := ∀ q, L'.reg q = L.reg q

/-- The key register is as before. -/
def KeepsKey (L L' : Lane) : Prop := L'.k = L.k

/-- The parity flags are as before. -/
def KeepsFlags (L L' : Lane) : Prop := L'.fp = L.fp ∧ L'.bp = L.bp

/-- The match and trial counters are as before. -/
def KeepsCounters (L L' : Lane) : Prop := L'.mc = L.mc ∧ L'.tc = L.tc

/-- The lane's RNG source is where it was: nothing was drawn. -/
def KeepsSource (L L' : Lane) : Prop := L'.rng = L.rng ∧ L'.drawn = L.drawn

/-- `i` answers a next state in which register `r` of the issuing lane holds `v`, and nothing else of the machine has
changed but the lane's micro-PC. -/
def WritesReg (i : Instr) (s : State) (L : Lane) (r : SReg) (v : State16) : Prop :=
  ∃ t L', exec i s = .next t ∧ Completed s t L L' ∧ L'.reg r = v ∧ KeepsRegsBut r L L' ∧ KeepsKey L L' ∧
    KeepsFlags L L' ∧ KeepsCounters L L' ∧ KeepsSource L L'

/-- The issuing lane of `s` is `L`. -/
def IssuedOn (s : State) (L : Lane) : Prop := s.lanes[s.inp.issue.lane]? = some L

/-! ### Draws (R150) -/

/-- The answer lane `l`'s source gives to the `n`-th draw from now. -/
def Lane.answer (L : Lane) (l n : Nat) : Draw := (L.rng[n]?).getD (Config.draw l (L.drawn + n))

/-- The next `n` draws of lane `l` answer the words `w`. -/
def Lane.answersWords (L : Lane) (l : Nat) {n : Nat} (w : Vector Word n) : Prop :=
  ∀ j : Fin n, L.answer l j = .word w[j]

/-- The lane's source has moved on by `n` draws. -/
def SourceMoved (n : Nat) (L L' : Lane) : Prop := L'.rng = L.rng.drop n ∧ L'.drawn = L.drawn + n

/-! ### Lane faults -/

/-- What a fault `f` in a batch leaves of the lane (R305): `LRUN` and `LF` written, and everything else as before but
the RNG source, which is outside the block. -/
structure FaultedInBatch (f : LaneFault) (L L' : Lane) : Prop where
  lrun : L'.lrun = .fault
  lf : L'.lf = some f
  regs : KeepsRegs L L'
  key : KeepsKey L L'
  flags : KeepsFlags L L'
  counters : KeepsCounters L L'
  upc : L'.upc = L.upc

/-- What a fault `f` on the UOP port leaves (R307): the two status fields written and no other, lane 0 as before but its
RNG source, `LRUN` and `LF` included, and nothing else changed. -/
structure FaultedOnUopPort (f : LaneFault) (s t : State) (L L' : Lane) : Prop where
  status : t.status = { s.status with uoperr := true, uopcode := some f }
  cfg : t.cfg = s.cfg
  res : t.res = s.res
  coord : t.coord = s.coord
  inp : t.inp = s.inp
  count : t.lanes.length = s.lanes.length
  others : ∀ m, m ≠ 0 → t.lanes[m]? = s.lanes[m]?
  lane : t.lanes[0]? = some L'
  regs : KeepsRegs L L'
  key : KeepsKey L L'
  flags : KeepsFlags L L'
  counters : KeepsCounters L L'
  upc : L'.upc = L.upc
  lrun : L'.lrun = L.lrun
  lf : L'.lf = L.lf

/-- The micro-op took the fault `f`, by R305 or by R307. -/
def TookFault (f : LaneFault) (s t : State) (L L' : Lane) : Prop :=
  match s.inp.issue with
  | .uopPort => FaultedOnUopPort f s t L L'
  | .program l => OnlyLane l s t ∧ t.lanes[l]? = some L' ∧ FaultedInBatch f L L'

/-! ### The machine's parts, the model's own inputs left out -/

/-- The two states agree on everything but the model's own inputs. -/
def SameMachine (s t : State) : Prop :=
  t.lanes = s.lanes ∧ t.cfg = s.cfg ∧ t.status = s.status ∧ t.res = s.res ∧ t.coord = s.coord

/-! ### Encodings -/

/-- The four clauses of R112, format by format: `op` 0xE or 0xF, a register id above 8, a "must be" field with another
value, a `funct` outside 1 to 4. -/
def illegalByR112 (u : Word16) : Bool :=
  let op := u.toNat / 4096
  let n2 := u.toNat / 256 % 16
  let n1 := u.toNat / 16 % 16
  let n0 := u.toNat % 16
  let low (n : Nat) := u.toNat % 2 ^ n
  if op = 0 then n2 != 0 || !(decide (1 ≤ low 8) && decide (low 8 ≤ 4))
  else if op = 1 then decide (8 < n2) || decide (8 < n1) || n0 != 0
  else if op ≤ 4 then decide (8 < n2) || decide (8 < n1) || decide (8 < n0)
  else if op = 5 then decide (8 < n2) || low 5 != 0
  else if op = 6 then decide (8 < n2) || low 8 != 0xC0
  else if op = 7 then decide (8 < n2) || low 5 != 0
  else if op ≤ 9 then decide (8 < n2)
  else if op = 10 then decide (8 < n2) || low 7 != 0
  else if op ≤ 12 then decide (8 < n2) || low 8 != 0
  else if op = 13 then decide (8 < n2) || low 7 != 0
  else true

/-! ### Register map -/

/-- The `RW*` registers of R61 by address, with the bits that are not reserved (R30 to R39). -/
def configMask (a : BitVec 11) : Option Word :=
  let n := a.toNat
  if n = 0x002 then some 0x00000007
  else if n = 0x003 then some 0x0000FFFF
  else if n = 0x004 then some 0x000001FF
  else if 0x005 ≤ n ∧ n ≤ 0x008 then some 0xFFFFFFFF
  else if n = 0x00A then some 0x000000FF
  else if 0x010 ≤ n ∧ n ≤ 0x037 then some 0xFFFFFFFF
  else if 0x050 ≤ n ∧ n ≤ 0x053 then some 0xFFFFFFFF
  else none

/-- The writable addresses of the lane-0 window (R61, R71), with the bits that are kept. -/
def windowMask (a : BitVec 11) : Option Word :=
  let n := a.toNat
  if 0x100 ≤ n ∧ n ≤ 0x197 then some 0xFFFFFFFF
  else if n = 0x198 then some 0x00000003
  else if 0x199 ≤ n ∧ n ≤ 0x19C then some 0xFFFFFFFF
  else none

/-- The reserved and unmapped addresses of R61. -/
def reservedAddress (a : BitVec 11) : Bool :=
  let n := a.toNat
  decide (0x00D ≤ n ∧ n ≤ 0x00F) || decide (0x054 ≤ n ∧ n ≤ 0x0FF) || decide (0x19E ≤ n ∧ n ≤ 0x1FF) ||
  decide (0x600 ≤ n)

/-- The read-only registers of R61. -/
def readOnlyAddress (a : BitVec 11) : Bool :=
  let n := a.toNat
  decide (n = 0x001) || decide (n = 0x009) || decide (n = 0x00C) || decide (0x038 ≤ n ∧ n ≤ 0x04F) ||
  decide (n = 0x19D) || decide (0x200 ≤ n ∧ n ≤ 0x5FF)

/-! ### Reset -/

/-- Every value R340 lists, of the whole machine but the state registers, the keys and the flags, which are unspecified. -/
structure ResetValues (s : State) : Prop where
  mode : s.cfg.mode = 0x00000002
  rounds : s.cfg.rounds = 0
  nw : s.cfg.nw.toNat = max 1 (s.lanes.length - 1)
  trials : s.cfg.trials.toNat = 2 ^ 18
  thr : s.cfg.thr = 0x3FD6666666666666
  maps : (∀ w : Fin 16, s.cfg.idm[w] = 0 ∧ s.cfg.omsk[w] = 0) ∧ ∀ k : Fin 8, s.cfg.skip[k] = 0
  ivfix : ∀ j : Fin 4, s.cfg.ivfix[j] = 0
  target : s.cfg.target = 0
  status : s.statusWord = 0
  progress : s.res.progress = 0 ∧ s.res.wkerrcnt = 0
  results : ∀ idx : Fin 256, s.res.matchCounts[idx] = 0 ∧ s.res.bias[idx] = 0
  bitmaps : ∀ k : Fin 8, s.res.pnb[k] = 0 ∧ s.res.npnb[k] = 0 ∧ s.res.donemap[k] = 0
  coord : s.coord.cst = .idle ∧ s.coord.cidx = 0 ∧ s.coord.threff = 0x3FD6666666666666
  lanes : ∀ L ∈ s.lanes, L.lrun = .idle ∧ L.upc = 0 ∧ L.mc = 0 ∧ L.tc = 0 ∧ L.lf = none

/-! ### The invariant -/

/-- A lane of the batch in work (R28, R214, R217). `MC` may pass `TC` by one, between MATCH and END (R193, R194;
log 31); a lane that faulted did so at a draw, never there. -/
structure BatchLane (c : CfgRegs) (L : Lane) : Prop where
  dispatched : L.lrun ≠ .idle
  trials : L.tc.toNat ≤ c.trials.toNat
  running : L.lrun = .run → L.tc.toNat < c.trials.toNat ∧ L.upc.toNat < trialLength c ∧ L.lf = none
  done : L.lrun = .done → L.tc = c.trials ∧ L.upc = 0 ∧ L.lf = none
  faulted : L.lrun = .fault → L.tc.toNat < c.trials.toNat ∧ L.lf = some .rngFail ∧ L.upc.toNat + 1 ≠ trialLength c
  closing : L.upc.toNat + 1 = trialLength c → L.mc.toNat ≤ L.tc.toNat + 1
  counted : L.upc.toNat + 1 ≠ trialLength c → L.mc.toNat ≤ L.tc.toNat
  replica : c.key128 = true → L.lrun = .run → 2 ≤ L.upc.toNat → ∀ j : Fin 4, L.k[j.val + 4] = L.k[j.val]

/-- The indices below which every index that is not skipped has its result: `CIDX`, and one more when the result of
`CIDX` is committed and only the progress step is due. -/
def State.completedBelow (s : State) : Nat :=
  s.coord.cidx.toNat + if s.coord.cst = .prog then 1 else 0

/-- The indices below `n` that are not skipped. -/
def CfgRegs.unskippedBelow (c : CfgRegs) (n : Nat) : Nat := (List.range n).countP fun idx => !mapBit c.skip idx

/-- A run in progress (R240 to R250). -/
structure RunInv (s : State) : Prop where
  legal : startRefusal s.cfg s.lanes.length = none
  running : s.status.done = false ∧ s.status.cfgerr = false ∧ s.status.uoperr = false
  cidx : s.coord.cidx.toNat ≤ s.cfg.keyBitCount
  inWork : s.coord.cst ≠ .scan → s.coord.cidx.toNat < s.cfg.keyBitCount ∧ mapBit s.cfg.skip s.coord.cidx.toNat = false
  donemap : ∀ idx, mapBit s.res.donemap idx = (decide (idx < s.completedBelow) && !mapBit s.cfg.skip idx)
  progress : s.res.progress.toNat = s.cfg.unskippedBelow s.coord.cidx.toNat
  results : ∀ idx : Fin 256, mapBit s.res.donemap idx = true →
    s.res.matchCounts[idx].toNat ≤ s.batchTrials ∧
    s.res.bias[idx] = biasOf s.res.matchCounts[idx].toNat s.batchTrials ∧
    mapBit s.res.pnb idx = isPnb s.res.bias[idx] s.coord.threff
  quiet : s.coord.cst ≠ .wait → ∀ L ∈ s.lanes, L.lrun = .idle
  target : s.coord.cst = .wait → s.cfg.target = targetOf s.coord.cidx
  batch : s.coord.cst = .wait → ∀ l L, s.lanes[l]? = some L →
    if l < s.cfg.workers then BatchLane s.cfg L else L.lrun = .idle

/-- The invariant of the machine. -/
structure Inv (s : State) : Prop where
  /-- `NLANES` is 1 to 256 (R6) -/
  lanes : 1 ≤ s.lanes.length ∧ s.lanes.length ≤ 256
  /-- reserved bits read 0 (R66, R30 to R32, R39) -/
  reserved : s.cfg.mode.toNat < 2 ^ 3 ∧ s.cfg.rounds.toNat < 2 ^ 16 ∧ s.cfg.nw.toNat < 2 ^ 9 ∧ s.cfg.target.toNat < 2 ^ 8
  /-- every result is a PNB or a non-PNB, never both (R249, R251) -/
  classified : ∀ idx, mapBit s.res.donemap idx = (mapBit s.res.pnb idx || mapBit s.res.npnb idx) ∧
    ¬ (mapBit s.res.pnb idx = true ∧ mapBit s.res.npnb idx = true)
  /-- an index with no result has `MATCHES = 0` and `BIAS = +0.0` (R43) -/
  untouched : ∀ idx : Fin 256, mapBit s.res.donemap idx = false → s.res.matchCounts[idx] = 0 ∧ s.res.bias[idx] = 0
  /-- the codes go with their bits (R40, R242, R307) -/
  codes : (s.status.uoperr = true ↔ s.status.uopcode ≠ none) ∧ (s.status.cfgerr = true ↔ s.status.cfgcode ≠ none)
  /-- `WKERR` goes with a counted fault (R247) -/
  errors : s.status.wkerr = true → s.res.wkerrcnt ≠ 0
  /-- no result is ever produced twice (R252) -/
  neverFatal : s.status.fatal = false
  /-- the threshold in effect is in [0, 1] (R243) -/
  threshold : thresholdOutOfRange s.coord.threff = false
  /-- no lane is at work while the engine is idle (R240, R247) -/
  idle : s.coord.cst = .idle → ∀ L ∈ s.lanes, L.lrun = .idle
  run : s.coord.cst ≠ .idle → RunInv s

end Machine

end Sys2Proof
end

