-- ==== Sys2Proof/Certificates/Slice0/Obligations.lean ====
section
/-! DEFINITION. The statements for the provers. Each is a `Prop` about the model; its docstring names the rules of the
spec it formalises. "The issuing lane" is the lane the micro-op runs on: lane 0 from the UOP port, lane `l` from the trial
program (R72, R214). -/

open Sys2Proof Sys2Proof.Machine

/-! ### Encoding -/

/-- The words the assembler table of R116 prints, each decoded to the micro-op beside it (30_encoding.md section 6). -/
def Obligations.SpecExampleWordsDecode : Prop :=
  ∀ p ∈ ([(0x0001, .drawk), (0x0002, .tglk), (0x0003, .matchUop), (0x0004, .endUop), (0x1200, .copy .XR .X),
      (0x2402, .add .SUM .X .XR), (0x3642, .sub .M .SUM .XR), (0x4801, .xor .D .X .XP), (0x5080, .arx .X .r13 .even),
      (0x66C0, .uarx18 .M), (0x7020, .hr1 .X .odd), (0x71A0, .hr2 .XP .odd), (0x7660, .bhr1 .M .odd),
      (0x77C0, .bhr2 .MP .even), (0x8102, .fround .XP 2), (0x9602, .bround .M 2), (0xA000, .initc .X .rnd),
      (0xA080, .initc .X .fix), (0xB300, .inskey .XPR), (0xC100, .inj .XP), (0xD880, .par .D .bwd),
      (0xD800, .par .D .fwd)] : List (Word16 × Instr)), decode p.1 = .ok p.2

/-- R118: the decoder is total and answers the row of R113 whose match and mask the word meets with register ids at
most 8, or is illegal when there is none; the encoder is its inverse both ways. -/
def Obligations.DecoderFollowsOpcodeMapAndEncoderInverts : Prop :=
  (∀ u i, decode u = .ok i → ∃ row ∈ opcodeMap, row.mnemonic = i.mnemonic ∧ row.matches u = true) ∧
  (∀ u, (∃ e, decode u = .error e) ↔ ∀ row ∈ opcodeMap, row.matches u = false) ∧
  (∀ u i, decode u = .ok i → i.wellFormed = true ∧ encode i = u) ∧
  (∀ i : Instr, i.wellFormed = true → decode (encode i) = .ok i)

/-- R113's last sentence: no word meets the match and mask of two rows. -/
def Obligations.OpcodeRowsNeverOverlap : Prop :=
  ∀ (u : Word16) (a b : OpcodeRow), a ∈ opcodeMap → b ∈ opcodeMap →
    u &&& a.mask = a.matchBits → u &&& b.mask = b.matchBits → a = b

/-- R112: which words are illegal, `0x0000` and `0xFFFF` among them; executing one raises `IllegalUop` and changes nothing
else, no draw among it; the trial program never contains one. -/
def Obligations.IllegalWordsRaiseIllegalUop : Prop :=
  (∀ u, (∃ e, decode u = .error e) ↔ illegalByR112 u = true) ∧
  illegalByR112 0x0000 = true ∧ illegalByR112 0xFFFF = true ∧
  (∀ (u : Word16) (s : State) (L : Lane), illegalByR112 u = true → IssuedOn s L →
    ∃ t L', runWord u s = .next t ∧ TookFault .illegalUop s t L L' ∧ KeepsSource L L') ∧
  (∀ (c : CfgRegs) (u : Word16), u ∈ trialWords c → illegalByR112 u = false)

/-! ### Bit primitives -/

/-- R130, R131, R132: rotation by `n mod 32`, bit reading and bit toggling, with their corner cases and examples. -/
def Obligations.BitPrimitivesAsDefined : Prop :=
  (∀ (w : Word) (n : Nat), n % 32 = 0 → rotl32 w n = w) ∧
  (∀ (w : Word) (n : Nat), n % 32 ≠ 0 →
    (rotl32 w n).toNat = (w.toNat <<< (n % 32)) % 2 ^ 32 ||| w.toNat >>> (32 - n % 32)) ∧
  (∀ (w : Word) (n i : Nat), i < 32 → getBit (rotl32 w n) ((i + n % 32) % 32) = getBit w i) ∧
  (∀ n, rotl32 0 n = 0 ∧ rotl32 0xFFFFFFFF n = 0xFFFFFFFF) ∧
  rotl32 0x12345678 7 = 0x1A2B3C09 ∧
  (∀ (w : Word) (b : Nat), b < 32 → (getBit w b).toNat = w.toNat >>> b % 2) ∧
  getBit 0x00000080 7 = true ∧
  (∀ (w : Word) (b : Nat), b < 32 → (toggleBit w b).toNat = w.toNat ^^^ 2 ^ b) ∧
  (∀ (w : Word) (b c : Nat), b < 32 → c ≠ b → getBit (toggleBit w b) c = getBit w c) ∧
  toggleBit 0x03020100 0 = 0x03020101 ∧ toggleBit 0x00000002 31 = 0x80000002

/-- R133: the laws of the primitives. -/
def Obligations.BitPrimitiveLaws : Prop :=
  (∀ (w : Word) (n : Nat), n ≤ 32 → rotl32 (rotl32 w n) (32 - n) = w) ∧
  (∀ (w : Word) (b : Nat), b < 32 → toggleBit (toggleBit w b) b = w) ∧
  (∀ (w : Word) (n : Nat), rotl32 w n = rotl32 w (n % 32)) ∧
  (∀ (w : Word) (m n : Nat), rotl32 (rotl32 w m) n = rotl32 w (m + n)) ∧
  (∀ (a b : Word) (n : Nat), rotl32 (a ^^^ b) n = rotl32 a n ^^^ rotl32 b n) ∧
  (∀ (w : Word) (b : Nat), b < 32 → (getBit (toggleBit w b) b).toNat = 1 - (getBit w b).toNat) ∧
  (∀ (w : Word) (b c : Nat), b < 32 → c < 32 → c ≠ b → getBit (toggleBit w b) c = getBit w c) ∧
  (∀ (w : Word) (b c : Nat), b < 32 → c < 32 → toggleBit (toggleBit w b) c = toggleBit (toggleBit w c) b)

/-! ### State-wide micro-ops -/

/-- R140: COPY completes on every pair of registers, equal ones included, and writes all 16 words of `dst` and nothing
else. -/
def Obligations.CopyCompletes : Prop :=
  ∀ (dst src : SReg) (s : State) (L : Lane), IssuedOn s L → WritesReg (.copy dst src) s L dst (L.reg src)

/-- R141, R142, R143: ADD, SUB and XOR complete on every choice of registers, aliased or not; word `i` of the result is
computed from words `i` of the operands as they were before the micro-op. -/
def Obligations.AddSubXorComplete : Prop :=
  ∀ (z a b : SReg) (s : State) (L : Lane), IssuedOn s L →
    (∃ v, WritesReg (.add z a b) s L z v ∧
      ∀ i : Fin 16, v[i].toNat = ((L.reg a)[i].toNat + (L.reg b)[i].toNat) % 2 ^ 32) ∧
    (∃ v, WritesReg (.sub z a b) s L z v ∧
      ∀ i : Fin 16, v[i].toNat = ((L.reg a)[i].toNat + (2 ^ 32 - (L.reg b)[i].toNat)) % 2 ^ 32) ∧
    (∃ v, WritesReg (.xor z a b) s L z v ∧ ∀ i : Fin 16, v[i] = (L.reg a)[i] ^^^ (L.reg b)[i])

/-- R147: the laws of the word-wise operations, the identity the sampler stands on among them. -/
def Obligations.StateArithmeticLaws : Prop :=
  (∀ a b, subState (addState a b) b = a) ∧ (∀ a b, addState (subState a b) b = a) ∧
  (∀ a b, addState a b = addState b a) ∧ (∀ a b c, addState (addState a b) c = addState a (addState b c)) ∧
  (∀ a b n : State16, (∀ i : Fin 16, n[i].toNat = (2 ^ 32 - b[i].toNat) % 2 ^ 32) → subState a b = addState a n) ∧
  (∀ a b, xorState (xorState a b) b = a) ∧
  (∀ a (i : Fin 16), (xorState a a)[i] = 0 ∧ (subState a a)[i] = 0) ∧
  (∀ (x r r' : State16) (i : Fin 16), (subState (addState x r) r')[i] = x[i] + r[i] - r'[i] ∧
    (r[i] = r'[i] → (subState (addState x r) r')[i] = x[i]))

/-- R144: INITC completes. With FIX always, with RND whenever the next four draws answer words; it writes the constants
of the key-size mode to words 0, 5, 10, 15 and the IV words in order to 6 to 9, keeps the key positions, and draws four
words with RND and none with FIX. -/
def Obligations.InitcCompletes : Prop :=
  ∀ (r : SReg) (s : State) (L : Lane), IssuedOn s L →
    let m : KeyMode := if getBit s.cfg.mode 0 then .key128 else .key256
    let layout (iv : Vector Word 4) (v : State16) : Prop :=
      v[0] = Config.constants m 0 ∧ v[5] = Config.constants m 1 ∧ v[10] = Config.constants m 2 ∧
      v[15] = Config.constants m 3 ∧ v[6] = iv[0] ∧ v[7] = iv[1] ∧ v[8] = iv[2] ∧ v[9] = iv[3] ∧
      (∀ i : Fin 16, 1 ≤ i.val ∧ i.val ≤ 4 ∨ 11 ≤ i.val ∧ i.val ≤ 14 → v[i] = (L.reg r)[i])
    (∃ v, WritesReg (.initc r .fix) s L r v ∧ layout s.cfg.ivfix v) ∧
    (∀ iv : Vector Word 4, L.answersWords s.inp.issue.lane iv →
      ∃ t L', exec (.initc r .rnd) s = .next t ∧ Completed s t L L' ∧ layout iv (L'.reg r) ∧ KeepsRegsBut r L L' ∧
        KeepsKey L L' ∧ KeepsFlags L L' ∧ KeepsCounters L L' ∧ SourceMoved 4 L L')

/-- R145: INSKEY completes and writes exactly the eight key positions, in both key-size modes. -/
def Obligations.InskeyCompletes : Prop :=
  ∀ (r : SReg) (s : State) (L : Lane), IssuedOn s L →
    ∃ v, WritesReg (.inskey r) s L r v ∧ ∀ i : Fin 16, v[i] =
      if h : 1 ≤ i.val ∧ i.val ≤ 4 then L.k[i.val - 1]
      else if h : 11 ≤ i.val ∧ i.val ≤ 14 then L.k[i.val - 7] else (L.reg r)[i]

/-- R146: DRAWK completes whenever its draws answer words: eight in 256-bit mode, four replicated in 128-bit mode; it
writes `K` and nothing else. -/
def Obligations.DrawkCompletes : Prop :=
  ∀ (s : State) (L : Lane), IssuedOn s L →
    (∀ k : Vector Word 8, getBit s.cfg.mode 0 = false → L.answersWords s.inp.issue.lane k →
      ∃ t L', exec .drawk s = .next t ∧ Completed s t L L' ∧ (∀ j : Fin 8, L'.k[j] = k[j]) ∧ KeepsRegs L L' ∧
        KeepsFlags L L' ∧ KeepsCounters L L' ∧ SourceMoved 8 L L') ∧
    (∀ k : Vector Word 4, getBit s.cfg.mode 0 = true → L.answersWords s.inp.issue.lane k →
      ∃ t L', exec .drawk s = .next t ∧ Completed s t L L' ∧ (∀ j : Fin 4, L'.k[j.val] = k[j] ∧ L'.k[j.val + 4] = k[j]) ∧
        KeepsRegs L L' ∧ KeepsFlags L L' ∧ KeepsCounters L L' ∧ SourceMoved 4 L L')

/-- R144, R146, R302: when a draw of INITC RND or of DRAWK fails, `RngFail` is taken and neither a word of the register
nor of `K` is written; the draws made, the failing one among them, stay consumed (that the failing one counts as consumed
is the model's choice, log 8). -/
def Obligations.FailedDrawTakesRngFail : Prop :=
  ∀ (i : Instr) (s : State) (L : Lane) (n : Nat) (w : Vector Word n), IssuedOn s L → i.draws = true →
    n < (if i = .drawk ∧ getBit s.cfg.mode 0 = false then 8 else 4) →
    L.answersWords s.inp.issue.lane w → L.answer s.inp.issue.lane n = .fail →
    ∃ t L', exec i s = .next t ∧ TookFault .rngFail s t L L' ∧ SourceMoved (n + 1) L L'

/-! ### Micro-steps and rounds -/

/-- R160: the two ordering tables; their quartets are disjoint and cover all sixteen indices; `a` is on the diagonal and
`b`, `c`, `d` follow it down the column (odd) or along the row (even), wrapping. -/
def Obligations.OrderingTables : Prop :=
  Ord.odd.bit = true ∧ Ord.even.bit = false ∧
  quartets .odd = [⟨0, 4, 8, 12⟩, ⟨5, 9, 13, 1⟩, ⟨10, 14, 2, 6⟩, ⟨15, 3, 7, 11⟩] ∧
  quartets .even = [⟨0, 1, 2, 3⟩, ⟨5, 6, 7, 4⟩, ⟨10, 11, 8, 9⟩, ⟨15, 12, 13, 14⟩] ∧
  (∀ o : Ord, ((quartets o).flatMap fun q => [q.a, q.b, q.c, q.d]).Nodup ∧
    ∀ i : Fin 16, i ∈ (quartets o).flatMap fun q => [q.a, q.b, q.c, q.d]) ∧
  (∀ q ∈ quartets .odd, q.a.val % 5 = 0 ∧ q.b.val = (q.a.val + 4) % 16 ∧ q.c.val = (q.a.val + 8) % 16 ∧
    q.d.val = (q.a.val + 12) % 16) ∧
  (∀ q ∈ quartets .even, q.a.val % 5 = 0 ∧ q.b.val = 4 * (q.a.val / 4) + (q.a.val + 1) % 4 ∧
    q.c.val = 4 * (q.a.val / 4) + (q.a.val + 2) % 4 ∧ q.d.val = 4 * (q.a.val / 4) + (q.a.val + 3) % 4)

/-- R161, R164: ARX completes for every register, rotation and ordering, and in each quartet makes the one assignment
that carries the rotation. -/
def Obligations.ArxCompletes : Prop :=
  ∀ (r : SReg) (rot : Rot) (o : Ord) (s : State) (L : Lane), IssuedOn s L →
    ∃ v, WritesReg (.arx r rot o) s L r v ∧ v = arxStep (L.reg r) rot o ∧ ∀ q ∈ quartets o,
      v[q.a] = (if rot = .r18 then (L.reg r)[q.a] ^^^ rotl32 ((L.reg r)[q.d] + (L.reg r)[q.c]) 18 else (L.reg r)[q.a]) ∧
      v[q.b] = (if rot = .r7 then (L.reg r)[q.b] ^^^ rotl32 ((L.reg r)[q.a] + (L.reg r)[q.d]) 7 else (L.reg r)[q.b]) ∧
      v[q.c] = (if rot = .r9 then (L.reg r)[q.c] ^^^ rotl32 ((L.reg r)[q.b] + (L.reg r)[q.a]) 9 else (L.reg r)[q.c]) ∧
      v[q.d] = (if rot = .r13 then (L.reg r)[q.d] ^^^ rotl32 ((L.reg r)[q.c] + (L.reg r)[q.b]) 13 else (L.reg r)[q.d])

/-- R166 to R171: the half-rounds and rounds complete, each with the effect of its ARX micro-steps in order; a round uses
the odd ordering when its index is odd, else the even one, so only bit 0 of the index matters. -/
def Obligations.HalfRoundsAndRoundsComplete : Prop :=
  ∀ (r : SReg) (o : Ord) (idx : Nat) (s : State) (L : Lane), IssuedOn s L →
    let S := L.reg r
    let o' : Ord := if idx % 2 = 1 then .odd else .even
    WritesReg (.hr1 r o) s L r (arxStep (arxStep S .r7 o) .r9 o) ∧
    WritesReg (.hr2 r o) s L r (arxStep (arxStep S .r13 o) .r18 o) ∧
    WritesReg (.bhr1 r o) s L r (arxStep (arxStep S .r18 o) .r13 o) ∧
    WritesReg (.bhr2 r o) s L r (arxStep (arxStep S .r9 o) .r7 o) ∧
    WritesReg (.fround r idx) s L r (arxStep (arxStep (arxStep (arxStep S .r7 o') .r9 o') .r13 o') .r18 o') ∧
    WritesReg (.bround r idx) s L r (arxStep (arxStep (arxStep (arxStep S .r18 o') .r13 o') .r9 o') .r7 o')

/-- R165: UARX18 completes; with `UMODE = 0` the register keeps its value, with `UMODE = 1` it takes the parameter
function `U_ALT`, of which nothing is assumed. -/
def Obligations.UarxCompletes : Prop :=
  ∀ (r : SReg) (s : State) (L : Lane), IssuedOn s L →
    (getBit s.cfg.mode 2 = false → WritesReg (.uarx18 r) s L r (L.reg r)) ∧
    (getBit s.cfg.mode 2 = true → WritesReg (.uarx18 r) s L r (Config.uAlt (L.reg r)))

/-- R162: every micro-step is an involution; micro-steps with different rotations, or with different orderings, do not
in general commute. -/
def Obligations.MicroStepInvolution : Prop :=
  (∀ (S : State16) (r : Rot) (o : Ord), arxStep (arxStep S r o) r o = S) ∧
  (∃ (S : State16) (r r' : Rot) (o : Ord), r ≠ r' ∧ arxStep (arxStep S r o) r' o ≠ arxStep (arxStep S r' o) r o) ∧
  (∃ (S : State16) (r : Rot) (o o' : Ord), o ≠ o' ∧ arxStep (arxStep S r o) r o' ≠ arxStep (arxStep S r o') r o)

/-- R163: the four micro-steps 7, 9, 13, 18 with one ordering apply the quarter-round to each quartet by itself. -/
def Obligations.RoundIsQuarterRounds : Prop :=
  ∀ (S : State16) (o : Ord), ∀ q ∈ quartets o,
    let T := arxStep (arxStep (arxStep (arxStep S .r7 o) .r9 o) .r13 o) .r18 o
    (T[q.a], T[q.b], T[q.c], T[q.d]) = quarterRound S[q.a] S[q.b] S[q.c] S[q.d]

/-- R172 (a) to (f): half-rounds and rounds from micro-steps, their inverses, bijectivity, the zero state, and the
transpose symmetry. -/
def Obligations.RoundLaws : Prop :=
  (∀ S o, hr1 S o = arxStep (arxStep S .r7 o) .r9 o ∧ hr2 S o = arxStep (arxStep S .r13 o) .r18 o ∧
    bhr1 S o = arxStep (arxStep S .r18 o) .r13 o ∧ bhr2 S o = arxStep (arxStep S .r9 o) .r7 o) ∧
  (∀ S i, (i % 2 = 1 → fround S i = hr2 (hr1 S .odd) .odd ∧ bround S i = bhr2 (bhr1 S .odd) .odd) ∧
    (i % 2 = 0 → fround S i = hr2 (hr1 S .even) .even ∧ bround S i = bhr2 (bhr1 S .even) .even)) ∧
  (∀ S o i, bhr2 (hr1 S o) o = S ∧ hr1 (bhr2 S o) o = S ∧ bhr1 (hr2 S o) o = S ∧ hr2 (bhr1 S o) o = S ∧
    bround (fround S i) i = S ∧ fround (bround S i) i = S) ∧
  (∀ r o i, Function.Bijective (arxStep · r o) ∧ Function.Bijective (uarx18 false) ∧ Function.Bijective (hr1 · o) ∧
    Function.Bijective (hr2 · o) ∧ Function.Bijective (bhr1 · o) ∧ Function.Bijective (bhr2 · o) ∧
    Function.Bijective (fround · i) ∧ Function.Bijective (bround · i)) ∧
  (∀ r o i, let Z : State16 := Vector.replicate 16 0
    arxStep Z r o = Z ∧ uarx18 false Z = Z ∧ hr1 Z o = Z ∧ hr2 Z o = Z ∧ bhr1 Z o = Z ∧ bhr2 Z o = Z ∧
    fround Z i = Z ∧ bround Z i = Z) ∧
  (∀ S r, arxStep (transpose S) r .even = transpose (arxStep S r .odd)) ∧
  (∀ (S : State16) (p q : Fin 4), (transpose S)[4 * p.val + q.val] = S[4 * q.val + p.val])

/-! ### Sampler micro-ops -/

/-- R190: INJ completes and XORs each word with its `IDM` word. -/
def Obligations.InjCompletes : Prop :=
  ∀ (r : SReg) (s : State) (L : Lane), IssuedOn s L →
    ∃ v, WritesReg (.inj r) s L r v ∧ ∀ w : Fin 16, v[w] = (L.reg r)[w] ^^^ s.cfg.idm[w]

/-- R191: PAR completes and writes exactly one flag, `FP` for PAR.F and `BP` for PAR.B, with the XOR of the bits of the
register over the pairs of MASK: 1 when an odd number of those bits is 1. -/
def Obligations.ParCompletes : Prop :=
  ∀ (r : SReg) (side : Side) (s : State) (L : Lane), IssuedOn s L →
    let ones := ((List.finRange 16).map fun w =>
      (List.range 32).countP fun b => getBit s.cfg.omsk[w] b && getBit (L.reg r)[w] b).sum
    let p := decide (ones % 2 = 1)
    ∃ t L', exec (.par r side) s = .next t ∧ Completed s t L L' ∧ KeepsRegs L L' ∧ KeepsKey L L' ∧ KeepsCounters L L' ∧
      KeepsSource L L' ∧ L'.fp = (if side = .fwd then p else L.fp) ∧ L'.bp = (if side = .bwd then p else L.bp)

/-- R192, R304: TGLK toggles bit `KB` of `K[KW]`, and in 128-bit mode of `K[KW + 4]` too, and writes nothing else; in
128-bit mode with `KW ≥ 4` it takes `BadTarget` instead, with `K` unchanged and no draw made. -/
def Obligations.TglkCompletesOrBadTarget : Prop :=
  ∀ (s : State) (L : Lane), IssuedOn s L →
    let kb := s.cfg.target.toNat % 32
    let kw := s.cfg.target.toNat / 32 % 8
    let key128 := getBit s.cfg.mode 0
    (¬ (key128 = true ∧ 4 ≤ kw) →
      ∃ t L', exec .tglk s = .next t ∧ Completed s t L L' ∧ KeepsRegs L L' ∧ KeepsFlags L L' ∧ KeepsCounters L L' ∧
        KeepsSource L L' ∧ ∀ j : Fin 8, L'.k[j] =
          if j.val = kw ∨ key128 = true ∧ j.val = kw + 4 then toggleBit L.k[j] kb else L.k[j]) ∧
    (key128 = true ∧ 4 ≤ kw →
      ∃ t L', exec .tglk s = .next t ∧ TookFault .badTarget s t L L' ∧ KeepsSource L L')

/-- R193: MATCH completes; `MC` goes up by one modulo 2^64 when the flags agree, and nothing else is written. -/
def Obligations.MatchCompletes : Prop :=
  ∀ (s : State) (L : Lane), IssuedOn s L →
    ∃ t L', exec .matchUop s = .next t ∧ Completed s t L L' ∧ KeepsRegs L L' ∧ KeepsKey L L' ∧ KeepsFlags L L' ∧
      KeepsSource L L' ∧ L'.tc = L.tc ∧
      L'.mc.toNat = if L.fp = L.bp then (L.mc.toNat + 1) % 2 ^ 64 else L.mc.toNat

/-- R194: END completes; `TC` goes up by one modulo 2^64. From the trial program, on a running lane, `upc` becomes 0 and
the lane is `DONE` when the new `TC` is `S`; on the UOP port `upc` and `LRUN` keep their values. Nothing else changes. -/
def Obligations.EndCompletes : Prop :=
  ∀ (s : State) (L : Lane), IssuedOn s L →
    ∃ t L', exec .endUop s = .next t ∧ OnlyLane s.inp.issue.lane s t ∧ t.lanes[s.inp.issue.lane]? = some L' ∧
      KeepsRegs L L' ∧ KeepsKey L L' ∧ KeepsFlags L L' ∧ KeepsSource L L' ∧ L'.mc = L.mc ∧ L'.lf = L.lf ∧
      L'.tc.toNat = (L.tc.toNat + 1) % 2 ^ 64 ∧
      (s.inp.issue = .uopPort → L'.upc = L.upc ∧ L'.lrun = L.lrun) ∧
      (s.inp.issue ≠ .uopPort → L.lrun = .run →
        L'.upc = 0 ∧ L'.lrun = if L'.tc = s.cfg.trials then .done else .run)

/-- The laws of R195: INJ twice restores the register, TGLK twice restores `K` when no fault is taken, the parity is linear,
an empty ID makes INJ the identity, and with an empty MASK the two PAR leave equal flags, so that MATCH counts. `MC` and `TC`
are 0 at dispatch; every micro-op but MATCH keeps `MC ≤ TC`, and so do MATCH and the END after it taken together. (R195's
"at every moment" is not stated: between MATCH and END the rules R193 and R194 let `MC` be `TC + 1`; log 31. A `TC` that could
wrap is left out: in a batch `TC ≤ S ≤ 2^40`, R26.) -/
def Obligations.SamplerLaws : Prop :=
  (∀ (r : SReg) (s t u : State) (L : Lane), IssuedOn s L → exec (.inj r) s = .next t → exec (.inj r) t = .next u →
    ∃ L', IssuedOn u L' ∧ KeepsRegs L L') ∧
  (∀ (s t u : State) (L : Lane), IssuedOn s L → badTarget s.cfg = false → exec .tglk s = .next t →
    exec .tglk t = .next u → ∃ L', IssuedOn u L' ∧ KeepsKey L L') ∧
  (∀ omsk a b : State16, maskedParity omsk (xorState a b) = (maskedParity omsk a ^^ maskedParity omsk b)) ∧
  (∀ (r : SReg) (s t : State) (L : Lane), IssuedOn s L → (∀ w : Fin 16, s.cfg.idm[w] = 0) → exec (.inj r) s = .next t →
    ∃ L', IssuedOn t L' ∧ KeepsRegs L L') ∧
  (∀ (r q : SReg) (s t u v : State) (L : Lane), IssuedOn s L → (∀ w : Fin 16, s.cfg.omsk[w] = 0) →
    exec (.par r .fwd) s = .next t → exec (.par q .bwd) t = .next u → exec .matchUop u = .next v →
    ∃ L', IssuedOn v L' ∧ L'.fp = false ∧ L'.bp = false ∧ L'.mc = L.mc + 1) ∧
  (∀ (s : State) (l : Nat) (L : Lane), l < s.cfg.workers → s.dispatchBatch.lanes[l]? = some L → L.mc = 0 ∧ L.tc = 0) ∧
  (∀ (i : Instr) (s t : State) (L L' : Lane), i ≠ .matchUop → IssuedOn s L → L.mc.toNat ≤ L.tc.toNat →
    L.tc.toNat + 1 < 2 ^ 64 → exec i s = .next t → IssuedOn t L' → L'.mc.toNat ≤ L'.tc.toNat) ∧
  (∀ (s t u : State) (L L' : Lane), IssuedOn s L → L.mc.toNat ≤ L.tc.toNat → L.tc.toNat + 1 < 2 ^ 64 →
    exec .matchUop s = .next t → exec .endUop t = .next u → IssuedOn u L' → L'.mc.toNat ≤ L'.tc.toNat)

/-! ### What every micro-op keeps -/

/-- R20, R196, R301: every micro-op, on a lane that exists, ends in a next state; it writes no configuration, result or
coordinator state and no other lane; it completes without a fault, or it takes `RngFail` (only a micro-op that draws) or
`BadTarget` (only TGLK, in 128-bit mode with `KW ≥ 4`), and then by R305 or R307. -/
def Obligations.MicroOpsCompleteOrTakeTheirFault : Prop :=
  ∀ (i : Instr) (s : State) (L : Lane), IssuedOn s L →
    ∃ t L', exec i s = .next t ∧ t.lanes[s.inp.issue.lane]? = some L' ∧
      t.cfg = s.cfg ∧ t.res = s.res ∧ t.coord = s.coord ∧ t.inp = s.inp ∧ t.lanes.length = s.lanes.length ∧
      (∀ m : Nat, m ≠ s.inp.issue.lane → t.lanes[m]? = s.lanes[m]?) ∧
      ((t.status = s.status ∧ L'.lf = L.lf ∧ (L'.lrun = L.lrun ∨ i = .endUop)) ∨
       (TookFault .rngFail s t L L' ∧ i.draws = true) ∨
       (TookFault .badTarget s t L L' ∧ i = .tglk ∧ badTarget s.cfg = true))

/-- R25, R26, R196: which micro-op writes what. A state register other than the micro-op's destination, `K` unless the
micro-op is DRAWK or TGLK, `FP` unless PAR.F, `BP` unless PAR.B, `MC` unless MATCH, `TC` unless END, and the RNG source
unless the micro-op draws, keep their values. -/
def Obligations.OnlyNamedMicroOpsWriteEachField : Prop :=
  ∀ (i : Instr) (s t : State) (L L' : Lane), IssuedOn s L → exec i s = .next t → t.lanes[s.inp.issue.lane]? = some L' →
    (∀ q, i.dest ≠ some q → L'.reg q = L.reg q) ∧
    (i ≠ .drawk → i ≠ .tglk → L'.k = L.k) ∧
    ((∀ r, i ≠ .par r .fwd) → L'.fp = L.fp) ∧
    ((∀ r, i ≠ .par r .bwd) → L'.bp = L.bp) ∧
    (i ≠ .matchUop → L'.mc = L.mc) ∧
    (i ≠ .endUop → L'.tc = L.tc) ∧
    (i.draws = false → KeepsSource L L')

/-- R27, R72, R214: the micro-PC. On the UOP port it, `LRUN` and `LF` never change. From the trial program every micro-op
other than END moves it by one, unless the micro-op faults: then it stays at the faulting word and the lane is `FAULT`. END
on a running lane sets it to 0. -/
def Obligations.MicroPcRule : Prop :=
  ∀ (i : Instr) (s t : State) (L L' : Lane), IssuedOn s L → exec i s = .next t → t.lanes[s.inp.issue.lane]? = some L' →
    (s.inp.issue = .uopPort → L'.upc = L.upc ∧ L'.lrun = L.lrun ∧ L'.lf = L.lf) ∧
    (s.inp.issue ≠ .uopPort → i ≠ .endUop →
      (L'.upc = L.upc + 1 ∧ L'.lrun = L.lrun ∧ L'.lf = L.lf) ∨ (L'.upc = L.upc ∧ L'.lrun = .fault ∧ L'.lf ≠ none)) ∧
    (s.inp.issue ≠ .uopPort → i = .endUop → L.lrun = .run → L'.upc = 0)

/-! ### A step runs the decoded micro-op -/

/-- R72: on the host's turn, a write of `v` to `UOP` while `BUSY = 0` runs the micro-op that `v[15:0]` decodes to, on
lane 0; bits 31:16 are ignored. The turn and the access are used up, and the step counted. While `BUSY = 1` the write is
dropped, whatever the word (R72, R344 (a)): nothing changes but that the turn and the access are used up. An illegal word
while idle (R112, R303, R307) sets `UOPERR` and `UOPCODE`, and nothing else changes. And every write of the host, to any
address, is made by its turn: the step is `RegWrite(a, v)` with the turn and the access used up (R64). -/
def Obligations.UopWriteRunsItsMicroOp : Prop :=
  (∀ (s : State) (v : Word) (rest : List HostAccess) (i : Instr),
    s.nextAgent = .host → s.inp.hostq = .reg (.write 0x00B v) :: rest → s.coord.cst = .idle →
    decode (v.extractLsb' 0 16) = .ok i →
    step s = exec i { s with inp := { s.inp with
      sched := s.inp.sched.tail, hostq := rest, tick := s.inp.tick + 1, issue := .uopPort } }) ∧
  (∀ (s : State) (v : Word) (rest : List HostAccess),
    s.nextAgent = .host → s.inp.hostq = .reg (.write 0x00B v) :: rest → s.coord.cst ≠ .idle →
    step s = .next { s with inp := { s.inp with sched := s.inp.sched.tail, hostq := rest, tick := s.inp.tick + 1 } }) ∧
  (∀ (s : State) (v : Word) (rest : List HostAccess) (e : Illegal),
    s.nextAgent = .host → s.inp.hostq = .reg (.write 0x00B v) :: rest → s.coord.cst = .idle → s.lanes ≠ [] →
    decode (v.extractLsb' 0 16) = .error e →
    step s = .next { s with
      status := { s.status with uoperr := true, uopcode := some .illegalUop }
      inp := { s.inp with sched := s.inp.sched.tail, hostq := rest, tick := s.inp.tick + 1, issue := .uopPort } }) ∧
  (∀ (s : State) (a : BitVec 11) (v : Word) (rest : List HostAccess),
    s.nextAgent = .host → s.inp.hostq = .reg (.write a v) :: rest →
    step s = regWrite { s with inp := { s.inp with sched := s.inp.sched.tail, hostq := rest, tick := s.inp.tick + 1 } } a v)

/-- R214: on the turn of a running lane, the step runs the micro-op at index `upc` of the trial program, on that lane. -/
def Obligations.LaneStepRunsTheProgramWord : Prop :=
  ∀ (s : State) (l : Nat) (L : Lane) (i : Instr),
    s.nextAgent = .lane l → s.lanes[l]? = some L → L.lrun = .run →
    2 * s.cfg.fint + s.cfg.ffrac.toNat ≤ 2 * s.cfg.rint + s.cfg.rfrac.toNat →
    (trialProgram s.cfg)[L.upc.toNat]? = some i →
    step s = exec i { s with inp := { s.inp with
      sched := s.inp.sched.tail, tick := s.inp.tick + 1, issue := .program l } }

/-- A word placed where the next step fetches it (log 10) is decoded and run by that very step, on lane 0 of an idle
engine. -/
def Obligations.PlacedWordIsRunNext : Prop :=
  ∀ (s : State) (nbits w : Nat) (i : Instr), decodeTableWord nbits w = some i →
    step (s.withFetchWord nbits w) = exec i { s with
      coord := { s.coord with cst := .idle }
      inp := { s.inp with tick := s.inp.tick + 1, issue := .uopPort } }

/-- R20, R75: the coordinator's turn is its step, and a lane's turn that lane's, with the turn used up. R214, R316: a lane that
is not running or not there, an idle coordinator, and a waiting coordinator whose join condition does not hold take no step:
their turn changes nothing but that it is used up. -/
def Obligations.IdleAgentsTakeNoStep : Prop :=
  ∀ s : State,
    (s.nextAgent = .coordinator → step s = coordinatorStep s.takeTurn) ∧
    (∀ l : Nat, s.nextAgent = .lane l → step s = laneStep l s.takeTurn) ∧
    (∀ l : Nat, s.nextAgent = .lane l → s.lanes[l]? = none → step s = .next s.takeTurn) ∧
    (∀ (l : Nat) (L : Lane), s.nextAgent = .lane l → s.lanes[l]? = some L → L.lrun ≠ .run → step s = .next s.takeTurn) ∧
    (s.nextAgent = .coordinator → s.coord.cst = .idle → step s = .next s.takeTurn) ∧
    (∀ (l : Nat) (L : Lane), s.nextAgent = .coordinator → s.coord.cst = .wait → l < s.cfg.workers → s.lanes[l]? = some L →
      L.lrun ≠ .done → L.lrun ≠ .fault → step s = .next s.takeTurn)

/-! ### The trial program -/

/-- R213: the length of the list, its least and greatest values over the legal configurations, and the examples. -/
def Obligations.TrialProgramLength : Prop :=
  (∀ c : CfgRegs, (trialWords c).length = 20 + 2 * c.fint + 6 * c.ffrac.toNat + 4 * (c.rint - (c.fint + c.ffrac.toNat)) +
    4 * c.rfrac.toNat + 12 * c.tailen.toNat) ∧
  (∀ c : CfgRegs, c.roundsLegal = true → 20 ≤ (trialWords c).length ∧ (trialWords c).length ≤ 546) ∧
  (∀ c : CfgRegs, c.rounds = 0x0000 → c.mode = 0x0 → (trialWords c).length = 20) ∧
  (∀ c : CfgRegs, c.rounds = 0x80FF → c.mode = 0x2 → c.roundsLegal = true ∧ (trialWords c).length = 546) ∧
  (∀ c : CfgRegs, c.rounds = 0x0204 → c.mode = 0x2 → (trialWords c).length = 44) ∧
  (∀ c : CfgRegs, c.rounds = 0x0587 → c.mode = 0x2 → (trialWords c).length = 54) ∧
  (∀ c : CfgRegs, c.rounds = 0x0000 → c.mode = 0x2 → (trialWords c).length = 32) ∧
  (∀ c : CfgRegs, c.rounds = 0x8001 → (c.mode = 0x0 → (trialWords c).length = 26) ∧
    (c.mode = 0x2 → (trialWords c).length = 38))

/-- The last sentence of R211, and R210's that the list depends on the round descriptor and `TAILEN` alone: every word of
the list decodes to its micro-op, the last is END and END occurs nowhere else, and MATCH only just before it. -/
def Obligations.TrialProgramEndsOnceAndIsLegal : Prop :=
  (∀ c : CfgRegs, ∃ p : List Instr, trialProgram c = p ++ [.matchUop, .endUop] ∧ .endUop ∉ p ∧ .matchUop ∉ p) ∧
  (∀ (c : CfgRegs) (n : Nat) (i : Instr), (trialProgram c)[n]? = some i →
    ∃ u, (trialWords c)[n]? = some u ∧ decode u = .ok i) ∧
  (∀ c c' : CfgRegs, c.rint = c'.rint → c.rfrac = c'.rfrac → c.fint = c'.fint → c.ffrac = c'.ffrac →
    c.tailen = c'.tailen → trialWords c = trialWords c')

/-- R218: on a running lane at index 0, with a legal round descriptor, a target in range and draws that answer words, the
`L` turns of the lane that run the list once leave the flags that `Trial(cfg, iv, k)` gives and count the match and the
trial: running the list is the trial as a function. The state registers and `K` of the lane hold what the trial left in
them; no other lane and no configuration, status, result or coordinator register changes. -/
def Obligations.TrialProgramComputesTheTrial : Prop :=
  ∀ (s : State) (l : Nat) (L : Lane) (rest : List Agent) (iv : Vector Word 4) (K : KeyWords),
    s.lanes[l]? = some L → L.lrun = .run → L.upc = 0 → s.cfg.roundsLegal = true → badTarget s.cfg = false →
    s.inp.sched = List.replicate (trialLength s.cfg) (.lane l) ++ rest →
    (∀ j : Fin 4, L.answer l j = .word iv[j]) →
    (∀ j : Fin 8, j.val < s.cfg.keyWordCount → L.answer l (4 + j) = .word K[j]) →
    (s.cfg.key128 = true → ∀ j : Fin 4, K[j.val + 4] = K[j.val]) →
    ∃ t L', Host.Core.run Sys2Proof.core (trialLength s.cfg) s = .next t ∧ t.lanes[l]? = some L' ∧
      L'.fp = (trial s.cfg iv K).fp ∧ L'.bp = (trial s.cfg iv K).bp ∧
      L'.mc = (if (trial s.cfg iv K).fp = (trial s.cfg iv K).bp then L.mc + 1 else L.mc) ∧
      L'.tc = L.tc + 1 ∧ L'.upc = 0 ∧ L'.lrun = (if L.tc + 1 = s.cfg.trials then .done else .run) ∧ L'.lf = L.lf ∧
      SourceMoved (4 + s.cfg.keyWordCount) L L' ∧
      t.cfg = s.cfg ∧ t.status = s.status ∧ t.res = s.res ∧ t.coord = s.coord ∧ t.inp.sched = rest ∧
      t.inp.hostq = s.inp.hostq ∧ t.lanes.length = s.lanes.length ∧ ∀ m : Nat, m ≠ l → t.lanes[m]? = s.lanes[m]?

/-- R221 (1): with an empty input difference both parities of a trial are 0, whatever the key, the flip and `U_ALT`. -/
def Obligations.ZeroDifferenceAlwaysMatches : Prop :=
  ∀ (c : CfgRegs) (iv : Vector Word 4) (K : KeyWords), (∀ w : Fin 16, c.idm[w] = 0) →
    (trial c iv K).fp = false ∧ (trial c iv K).bp = false

/-- R220: what `M` and `MP` are after the sum, the flip and the subtraction. With `x`, `x'` the ends of the two forward
pipelines and `X0`, `X0'` their starts, `X0` holding the key `K` at its key positions: `M` is `x` but for the position of
the flipped key word (in 128-bit mode of its replica too), which gains `2^KB` when the key bit was 1 and loses it when it
was 0; `MP` is `x'` with the same change, and at a key position the difference between the two starts is added too. -/
def Obligations.KeyFlipAlgebra : Prop :=
  ∀ (c : CfgRegs) (x x' X0 X0' : State16) (K : KeyWords),
    badTarget c = false → insertKey X0 K = X0 → (c.key128 = true → ∀ j : Fin 4, K[j.val + 4] = K[j.val]) →
    let flipped := toggleTarget c K
    let p := if c.kw.val ≤ 3 then 1 + c.kw.val else 7 + c.kw.val
    let δ (i : Fin 16) : Word :=
      if i.val = p ∨ c.key128 = true ∧ i.val = 11 + c.kw.val then
        if getBit K[c.kw] c.kb then 1#32 <<< c.kb else -(1#32 <<< c.kb)
      else 0
    let keyPosition (i : Fin 16) : Prop := 1 ≤ i.val ∧ i.val ≤ 4 ∨ 11 ≤ i.val ∧ i.val ≤ 14
    ∀ i : Fin 16,
      (subState (addState x X0) (insertKey X0 flipped))[i] = x[i] + δ i ∧
      (keyPosition i → (subState (addState x' X0') (insertKey X0' flipped))[i] = x'[i] + δ i + (X0'[i] - X0[i])) ∧
      (¬ keyPosition i → (subState (addState x' X0') (insertKey X0' flipped))[i] = x'[i])

/-! ### The host port -/

/-- R65: a read has no side effect. It answers the word the register shows and leaves the whole machine as it was; the
turn and the access are used up, the step counted and the answer kept. -/
def Obligations.ReadsChangeNothing : Prop :=
  ∀ (s : State) (a : BitVec 11) (rest : List HostAccess),
    s.nextAgent = .host → s.inp.hostq = .reg (.read a) :: rest →
    ∃ t, step s = .next t ∧ SameMachine s t ∧
      t.inp.rdata = regRead s.takeTurn a ∧ t.inp.sched = s.inp.sched.tail ∧ t.inp.hostq = rest ∧ t.inp.tick = s.inp.tick + 1 ∧ t.inp.issue = s.inp.issue

/-- R65, R66: while idle, a write to a configuration register is read back masked to its named fields, no other address of
the map reads differently, and nothing but the configuration changes. -/
def Obligations.ConfigWritesReadBackMasked : Prop :=
  ∀ (s : State) (a : BitVec 11) (mask v : Word), s.coord.cst = .idle → configMask a = some mask →
    ∃ t, regWrite s a v = .next t ∧ regRead t a = v &&& mask ∧ (∀ b, b ≠ a → regRead t b = regRead s b) ∧
      t.lanes = s.lanes ∧ t.status = s.status ∧ t.res = s.res ∧ t.coord = s.coord ∧ t.inp = s.inp

/-- R70: while `BUSY = 1` a write to a configuration register is dropped and nothing records it, and a read of one is
answered from the configuration alone, busy or not. -/
def Obligations.ConfigLockWhileBusy : Prop :=
  (∀ (s : State) (a : BitVec 11) (mask v : Word), s.coord.cst ≠ .idle → configMask a = some mask →
    regWrite s a v = .next s) ∧
  (∀ (s t : State) (a : BitVec 11) (mask : Word), configMask a = some mask → t.cfg = s.cfg → regRead t a = regRead s a)

/-- R66: reserved and unmapped addresses read 0 and ignore writes; a write to a read-only register is ignored; reserved
bits of the configuration registers, of `STATUS` and of `L0STAT` read 0 in every state of the invariant; no access to any
address stops the machine. -/
def Obligations.ReservedReadsZeroAndNothingFaults : Prop :=
  (∀ (s : State) (a : BitVec 11) (v : Word), reservedAddress a = true → regRead s a = 0 ∧ regWrite s a v = .next s) ∧
  (∀ (s : State) (a : BitVec 11) (v : Word), readOnlyAddress a = true → regWrite s a v = .next s) ∧
  (∀ (s : State) (a : BitVec 11) (mask : Word), Inv s → configMask a = some mask → regRead s a &&& ~~~mask = 0) ∧
  (∀ s : State, s.lanes ≠ [] → regRead s 0x001 &&& 0xFFFF0080 = 0 ∧ regRead s 0x19D &&& 0xF000FFC0 = 0 ∧
    (s.coord.cst = .idle → regRead s 0x198 &&& 0xFFFFFFFC = 0)) ∧
  (∀ (s : State) (a : BitVec 11) (v : Word), s.lanes ≠ [] → ∃ t, regWrite s a v = .next t)

/-- R68: `CTRL` writes, START before CLR, everything else nothing. -/
def Obligations.CtrlWrites : Prop :=
  ∀ (s : State) (v : Word),
    (s.coord.cst ≠ .idle → regWrite s 0x000 v = .next s) ∧
    (s.coord.cst = .idle → getBit v 0 = true → regWrite s 0x000 v = .next s.start) ∧
    (s.coord.cst = .idle → getBit v 0 = false → getBit v 1 = true →
      ∃ t, regWrite s 0x000 v = .next t ∧ t.statusWord = 0 ∧ t.lanes = s.lanes ∧ t.cfg = s.cfg ∧ t.res = s.res ∧
        t.coord = s.coord ∧ t.inp = s.inp) ∧
    (s.coord.cst = .idle → getBit v 0 = false → getBit v 1 = false → regWrite s 0x000 v = .next s)

/-- R71: while idle, a write to the lane-0 window sets that piece of lane 0 (of `L0FLAGS` bits 1:0) and a read returns it;
no other address reads differently, and no other lane, lane 0's RNG source, and no configuration, status, result or
coordinator state changes. While `BUSY = 1` the write is dropped. -/
def Obligations.WindowWritesReadBack : Prop :=
  ∀ (s : State) (a : BitVec 11) (mask v : Word), s.lanes ≠ [] → windowMask a = some mask →
    (s.coord.cst = .idle → ∃ t, regWrite s a v = .next t ∧ regRead t a = v &&& mask ∧
      (∀ b, b ≠ a → regRead t b = regRead s b) ∧ t.lanes.length = s.lanes.length ∧
      (∀ l : Nat, l ≠ 0 → t.lanes[l]? = s.lanes[l]?) ∧
      (∃ L L', s.lanes[0]? = some L ∧ t.lanes[0]? = some L' ∧ KeepsSource L L') ∧
      t.cfg = s.cfg ∧ t.status = s.status ∧ t.res = s.res ∧ t.coord = s.coord ∧ t.inp = s.inp) ∧
    (s.coord.cst ≠ .idle → regWrite s a v = .next s)

/-- R61: which register stands at which address; the layouts of `STATUS` (R40) and `L0STAT`, and the codes they show
(`UOPCODE` and `LF`: R301; `CFGCODE`: R40; `LRUN`: R61). -/
def Obligations.RegisterMapAddresses : Prop :=
  regAt 0x000 = .ctrl ∧ regAt 0x001 = .status ∧ regAt 0x002 = .mode ∧ regAt 0x003 = .rounds ∧ regAt 0x004 = .nw ∧
  regAt 0x005 = .sLo ∧ regAt 0x006 = .sHi ∧ regAt 0x007 = .thrLo ∧ regAt 0x008 = .thrHi ∧ regAt 0x009 = .progress ∧
  regAt 0x00A = .target ∧ regAt 0x00B = .uop ∧ regAt 0x00C = .wkerrcnt ∧
  (∀ w : Fin 16, regAt (BitVec.ofNat 11 (0x010 + w)) = .idm w ∧ regAt (BitVec.ofNat 11 (0x020 + w)) = .omsk w) ∧
  (∀ k : Fin 8, regAt (BitVec.ofNat 11 (0x030 + k)) = .skip k ∧ regAt (BitVec.ofNat 11 (0x038 + k)) = .pnb k ∧
    regAt (BitVec.ofNat 11 (0x040 + k)) = .npnb k ∧ regAt (BitVec.ofNat 11 (0x048 + k)) = .donemap k ∧
    regAt (BitVec.ofNat 11 (0x190 + k)) = .l0k k) ∧
  (∀ j : Fin 4, regAt (BitVec.ofNat 11 (0x050 + j)) = .ivfix j) ∧
  (∀ (r : SReg) (i : Fin 16), regAt (BitVec.ofNat 11 (0x100 + 16 * r.id.toNat + i)) = .l0sr r i) ∧
  regAt 0x198 = .l0flags ∧ regAt 0x199 = .l0mcLo ∧ regAt 0x19A = .l0mcHi ∧ regAt 0x19B = .l0tcLo ∧
  regAt 0x19C = .l0tcHi ∧ regAt 0x19D = .l0stat ∧
  (∀ idx : Fin 256, regAt (BitVec.ofNat 11 (0x200 + 2 * idx)) = .biasLo idx ∧
    regAt (BitVec.ofNat 11 (0x201 + 2 * idx)) = .biasHi idx ∧ regAt (BitVec.ofNat 11 (0x400 + 2 * idx)) = .matchesLo idx ∧
    regAt (BitVec.ofNat 11 (0x401 + 2 * idx)) = .matchesHi idx) ∧
  (∀ s : State, getBit s.statusWord 0 = decide (s.coord.cst ≠ .idle) ∧ getBit s.statusWord 1 = s.status.done ∧
    getBit s.statusWord 2 = s.status.cfgerr ∧ getBit s.statusWord 3 = s.status.wkerr ∧
    getBit s.statusWord 4 = s.status.fatal ∧ getBit s.statusWord 5 = s.status.thrdef ∧
    getBit s.statusWord 6 = s.status.uoperr ∧ s.statusWord.extractLsb' 8 4 = StartError.code s.status.cfgcode ∧
    s.statusWord.extractLsb' 12 4 = LaneFault.code s.status.uopcode) ∧
  (∀ L : Lane, L.statWord.extractLsb' 0 4 = LaneFault.code L.lf ∧ L.statWord.extractLsb' 4 2 = L.lrun.code ∧
    L.statWord.extractLsb' 16 12 = L.upc) ∧
  LaneFault.code none = 0 ∧ LaneFault.code (some .rngFail) = 1 ∧ LaneFault.code (some .illegalUop) = 2 ∧
  LaneFault.code (some .badTarget) = 3 ∧
  StartError.code none = 0 ∧ StartError.code (some .rounds) = 1 ∧ StartError.code (some .workers) = 2 ∧
  StartError.code (some .trials) = 3 ∧
  LRun.code .idle = 0 ∧ LRun.code .run = 1 ∧ LRun.code .done = 2 ∧ LRun.code .fault = 3

/-! ### The coordinator -/

/-- R242: the START checks in their order, and what a refusal leaves: `CFGERR` and `CFGCODE`, and nothing else changed. A
configuration that passes all three is not refused. -/
def Obligations.StartRefusals : Prop :=
  ∀ (s : State) (v : Word), s.coord.cst = .idle → getBit v 0 = true →
    let badRounds := 2 * s.cfg.rint + s.cfg.rfrac.toNat < 2 * s.cfg.fint + s.cfg.ffrac.toNat
    let badWorkers := s.cfg.workers = 0 ∨ s.lanes.length < s.cfg.workers
    let badTrials := s.cfg.trials.toNat = 0 ∨ 2 ^ 40 < s.cfg.trials.toNat
    let refusedWith (e : StartError) : Prop :=
      regWrite s 0x000 v = .next { s with status := { s.status with cfgerr := true, cfgcode := some e } }
    (badRounds → refusedWith .rounds) ∧
    (¬ badRounds → badWorkers → refusedWith .workers) ∧
    (¬ badRounds → ¬ badWorkers → badTrials → refusedWith .trials) ∧
    (¬ badRounds → ¬ badWorkers → ¬ badTrials → ∃ t, regWrite s 0x000 v = .next t ∧ t.coord.cst = .scan) ∧
    StartError.code (some .rounds) = 1 ∧ StartError.code (some .workers) = 2 ∧ StartError.code (some .trials) = 3

/-- R241, R243, R244: an accepted START. The threshold pattern is in range exactly when it is `−0.0` or at most the
pattern of `1.0`; then it is latched, else 0.35 is and `THRDEF` says so. Every clear of R244, `CIDX` 0, `CST` at the scan;
the configuration, the threshold registers among it, and the RNG sources untouched. -/
def Obligations.AcceptedStart : Prop :=
  ∀ (s : State) (v : Word), s.coord.cst = .idle → getBit v 0 = true →
    2 * s.cfg.fint + s.cfg.ffrac.toNat ≤ 2 * s.cfg.rint + s.cfg.rfrac.toNat →
    1 ≤ s.cfg.workers → s.cfg.workers ≤ s.lanes.length → 1 ≤ s.cfg.trials.toNat → s.cfg.trials.toNat ≤ 2 ^ 40 →
    let inRange : Prop := s.cfg.thr = 0x8000000000000000 ∨ s.cfg.thr.toNat ≤ 0x3FF0000000000000
    ∃ t, regWrite s 0x000 v = .next t ∧ t.cfg = s.cfg ∧ t.inp = s.inp ∧
      t.coord.cst = .scan ∧ t.coord.cidx = 0 ∧
      (inRange → t.coord.threff = s.cfg.thr ∧ t.status.thrdef = false) ∧
      (¬ inRange → t.coord.threff = 0x3FD6666666666666 ∧ t.status.thrdef = true) ∧
      t.status.done = false ∧ t.status.cfgerr = false ∧ t.status.wkerr = false ∧ t.status.fatal = false ∧
      t.status.uoperr = false ∧ t.status.cfgcode = none ∧ t.status.uopcode = none ∧
      t.res.progress = 0 ∧ t.res.wkerrcnt = 0 ∧
      (∀ idx : Fin 256, t.res.matchCounts[idx] = 0 ∧ t.res.bias[idx] = 0) ∧
      (∀ k : Fin 8, t.res.pnb[k] = 0 ∧ t.res.npnb[k] = 0 ∧ t.res.donemap[k] = 0) ∧
      t.lanes.length = s.lanes.length ∧
      ∀ (l : Nat) (L : Lane), s.lanes[l]? = some L → ∃ L', t.lanes[l]? = some L' ∧
        L'.lrun = .idle ∧ L'.lf = none ∧ L'.upc = 0 ∧ L'.mc = 0 ∧ L'.tc = 0 ∧ KeepsSource L L'

/-- R245, R246: the scan step ends the run past the last key bit, passes a skipped index with no result, and else
dispatches: `TARGET` gets the index, the first `W` lanes are armed together, every other lane is left alone. -/
def Obligations.ScanStep : Prop :=
  ∀ s : State, s.coord.cst = .scan →
    let last := if getBit s.cfg.mode 0 then 128 else 256
    let idx := s.coord.cidx.toNat
    (idx = last → coordinatorStep s = .next { s with
      coord := { s.coord with cst := .idle }, status := { s.status with done := true } }) ∧
    (idx < last → mapBit s.cfg.skip idx = true →
      coordinatorStep s = .next { s with coord := { s.coord with cidx := s.coord.cidx + 1 } }) ∧
    (idx < last → mapBit s.cfg.skip idx = false →
      ∃ t, coordinatorStep s = .next t ∧ t.cfg = { s.cfg with target := t.cfg.target } ∧
        t.cfg.kw.val = idx / 32 ∧ t.cfg.kb = idx % 32 ∧ t.cfg.target.toNat < 2 ^ 8 ∧
        t.status = s.status ∧ t.res = s.res ∧ t.inp = s.inp ∧ t.coord = { s.coord with cst := .wait } ∧
        t.lanes.length = s.lanes.length ∧
        ∀ (l : Nat) (L : Lane), s.lanes[l]? = some L → ∃ L', t.lanes[l]? = some L' ∧
          (l < s.cfg.workers → L'.mc = 0 ∧ L'.tc = 0 ∧ L'.upc = 0 ∧ L'.lf = none ∧ L'.lrun = .run ∧ KeepsRegs L L' ∧
            KeepsKey L L' ∧ KeepsFlags L L' ∧ KeepsSource L L') ∧
          (s.cfg.workers ≤ l → L' = L))

/-- R247, R249, R252: the join. When every lane of the batch is `DONE` or `FAULT`, the matches of the `DONE` lanes are
summed, the faults counted, and the result of the index committed: `MATCHES`, `BIAS`, one of `PNB` and `NPNB`, `DONEMAP`,
and no other index's; the lanes of the batch are released with their counters, micro-PC and fault code kept. If the index
already had its result: `FATAL`, the run stopped, nothing written for the index, every lane idle. -/
def Obligations.JoinCommitsOnce : Prop :=
  ∀ s : State, s.coord.cst = .wait → (∀ L ∈ s.lanes.take s.cfg.workers, L.lrun = .done ∨ L.lrun = .fault) →
    1 ≤ s.cfg.workers * s.cfg.trials.toNat → s.coord.cidx.toNat < 256 →
    let idx := s.coord.cidx.toNat
    let batch := s.lanes.take s.cfg.workers
    let count : Word64 := (batch.map fun L => if L.lrun = .done then L.mc else 0).sum
    let nfault := batch.countP fun L => L.lrun == .fault
    let bias := F64.sub (F64.div (F64.mul 0x4000000000000000 (F64.ofNat count.toNat))
      (F64.ofNat (s.cfg.workers * s.cfg.trials.toNat))) 0x3FF0000000000000
    let pnb := F64.le s.coord.threff (F64.abs bias) && F64.lt 0 (F64.abs bias)
    (mapBit s.res.donemap idx = false →
      ∃ t, coordinatorStep s = .next t ∧ t.cfg = s.cfg ∧ t.inp = s.inp ∧ t.coord = { s.coord with cst := .prog } ∧
        t.status = { s.status with wkerr := s.status.wkerr || decide (0 < nfault) } ∧
        t.res.progress = s.res.progress ∧
        t.res.wkerrcnt.toNat = min (s.res.wkerrcnt.toNat + nfault) (2 ^ 32 - 1) ∧
        (∀ j : Fin 256, t.res.matchCounts[j] = (if j.val = idx then count else s.res.matchCounts[j]) ∧
          t.res.bias[j] = (if j.val = idx then bias else s.res.bias[j]) ∧
          mapBit t.res.donemap j = (mapBit s.res.donemap j || decide (j.val = idx)) ∧
          mapBit t.res.pnb j = (mapBit s.res.pnb j || decide (j.val = idx) && pnb) ∧
          mapBit t.res.npnb j = (mapBit s.res.npnb j || decide (j.val = idx) && !pnb)) ∧
        t.lanes.length = s.lanes.length ∧
        ∀ (l : Nat) (L : Lane), s.lanes[l]? = some L → ∃ L', t.lanes[l]? = some L' ∧
          L'.lrun = (if l < s.cfg.workers then .idle else L.lrun) ∧ L'.lf = L.lf ∧ L'.upc = L.upc ∧
          KeepsCounters L L' ∧ KeepsSource L L') ∧
    (mapBit s.res.donemap idx = true →
      ∃ t, coordinatorStep s = .next t ∧ t.status.fatal = true ∧ t.status.done = s.status.done ∧ t.coord.cst = .idle ∧
        t.cfg = s.cfg ∧ t.res.matchCounts = s.res.matchCounts ∧ t.res.bias = s.res.bias ∧ t.res.pnb = s.res.pnb ∧
        t.res.npnb = s.res.npnb ∧ t.res.donemap = s.res.donemap ∧ t.res.progress = s.res.progress ∧
        ∀ L ∈ t.lanes, L.lrun = .idle)

/-- R250: the progress step counts the index, moves to the next and goes back to the scan, and changes nothing else. -/
def Obligations.ProgressStep : Prop :=
  ∀ s : State, s.coord.cst = .prog →
    coordinatorStep s = .next { s with
      res := { s.res with progress := s.res.progress + 1 }
      coord := { s.coord with cst := .scan, cidx := s.coord.cidx + 1 } }

/-- R248: the bias of all, none and half of the trials, for every number of trials a run can have; the conversion of
an integer below 2^53 is exact. -/
def Obligations.BiasAtTheEnds : Prop :=
  (∀ T, 1 ≤ T → T ≤ 2 ^ 48 → biasOf T T = 0x3FF0000000000000 ∧ biasOf 0 T = 0xBFF0000000000000) ∧
  (∀ m, 1 ≤ m → 2 * m ≤ 2 ^ 48 → biasOf m (2 * m) = 0) ∧
  (∀ n, n < 2 ^ 53 → F64.value (F64.ofNat n) = n * 2 ^ 1074)

/-- R249's consequences: lowering the threshold cannot shrink the PNB set; with threshold 0 the PNBs are the biases that
are not zero; with threshold 1, among biases in [−1, 1], those of magnitude 1. -/
def Obligations.ClassificationIsMonotone : Prop :=
  (∀ b t t' : Word64, F64.le t t' = true → isPnb b t' = true → isPnb b t = true) ∧
  (∀ b : Word64, F64.isNaN b = false → (isPnb b 0 = true ↔ F64.abs b ≠ 0)) ∧
  (∀ b : Word64, F64.isNaN b = false → F64.le (F64.abs b) 0x3FF0000000000000 = true →
    (isPnb b 0x3FF0000000000000 = true ↔ F64.abs b = 0x3FF0000000000000))

/-! ### Reset and the whole machine -/

/-- R340: the values after reset, of `State.reset` and of the reset event, which can come at any time and leaves the RNG
sources as they were; nothing executes after it: neither the coordinator nor a lane takes a step. -/
def Obligations.ResetGivesTheListedValues : Prop :=
  ResetValues State.reset ∧ State.reset.lanes.length = Config.nlanes ∧
  (∀ s : State, ResetValues s → (s.nextAgent = .coordinator ∨ ∃ l, s.nextAgent = .lane l) → step s = .next s.takeTurn) ∧
  ∀ s : State, s.nextAgent = .reset → 1 ≤ s.lanes.length → s.lanes.length ≤ 256 →
    ∃ t, step s = .next t ∧ ResetValues t ∧ t.lanes.length = s.lanes.length ∧
      ∀ (l : Nat) (L : Lane), s.lanes[l]? = some L → ∃ L', t.lanes[l]? = some L' ∧ KeepsSource L L'

/-- The invariant holds after reset. -/
def Obligations.InvariantAtReset : Prop := Inv State.reset

/-- Every step of every agent keeps the invariant: the register map's reserved bits, one result per index and one class
per result, `DONEMAP` and `PROGRESS` exact for the indices passed, lanes idle outside a batch, counters and micro-PC of
the lanes of a batch in range, the replicated key in 128-bit mode, no fatal error ever. -/
def Obligations.InvariantKeptByEveryStep : Prop :=
  ∀ s t : State, Inv s → step s = .next t → Inv t

/-- From a state of the invariant the machine never stops with a fault, and the one refusal is a narrow bus access (R63)
the host offers. -/
def Obligations.NoFaultUnderTheInvariant : Prop :=
  ∀ s : State, Inv s →
    (∃ t, step s = .next t) ∨
    (step s = .refused .narrowAccess ∧ s.nextAgent = .host ∧ s.inp.hostq.head? = some .narrow)

/-- R20, R254: steps of different lanes commute: in either order they leave the same lanes, configuration, status, results
and coordinator. -/
def Obligations.LaneStepsCommute : Prop :=
  ∀ (s a b : State) (l m : Nat), l ≠ m → laneStep l s = .next a → laneStep m a = .next b →
    ∃ c d, laneStep m s = .next c ∧ laneStep l c = .next d ∧ SameMachine b d

/-- R251: when a run of the invariant completes, every index below `key_bit_count` that is not skipped has its `DONEMAP`
bit and exactly one of `PNB` and `NPNB`, every skipped one and every index above has none, and `PROGRESS` is the number of
indices not skipped. -/
def Obligations.CompletionIsExact : Prop :=
  ∀ s : State, Inv s → s.coord.cst = .scan → s.coord.cidx.toNat = s.cfg.keyBitCount →
    ∃ t, coordinatorStep s = .next t ∧ t.status.done = true ∧ t.coord.cst = .idle ∧
      (∀ idx, idx < s.cfg.keyBitCount → mapBit s.cfg.skip idx = false →
        mapBit t.res.donemap idx = true ∧ (mapBit t.res.pnb idx = !mapBit t.res.npnb idx)) ∧
      (∀ idx, s.cfg.keyBitCount ≤ idx ∨ mapBit s.cfg.skip idx = true →
        mapBit t.res.donemap idx = false ∧ mapBit t.res.pnb idx = false ∧ mapBit t.res.npnb idx = false) ∧
      t.res.progress.toNat = (List.range s.cfg.keyBitCount).countP fun idx => !mapBit s.cfg.skip idx

/-! ### What a read answers -/

/-- R61, R62: what `RegRead` answers at every named address. `CTRL` and `UOP` read 0; the status, configuration and result
registers read as they stand, busy or not, a 64-bit quantity with its low word at the lower address; `L0STAT` reads lane 0
busy or not, and the rest of the lane-0 window reads lane 0 while idle (R71). -/
def Obligations.RegisterReadsShowTheirState : Prop :=
  (∀ s : State,
    regRead s 0x000 = 0 ∧ regRead s 0x001 = s.statusWord ∧ regRead s 0x009 = s.res.progress ∧ regRead s 0x00B = 0 ∧
    regRead s 0x00C = s.res.wkerrcnt ∧
    regRead s 0x002 = s.cfg.mode ∧ regRead s 0x003 = s.cfg.rounds ∧ regRead s 0x004 = s.cfg.nw ∧
    regRead s 0x00A = s.cfg.target ∧
    regRead s 0x005 = s.cfg.trials.extractLsb' 0 32 ∧ regRead s 0x006 = s.cfg.trials.extractLsb' 32 32 ∧
    regRead s 0x007 = s.cfg.thr.extractLsb' 0 32 ∧ regRead s 0x008 = s.cfg.thr.extractLsb' 32 32 ∧
    (∀ w : Fin 16, regRead s (BitVec.ofNat 11 (0x010 + w)) = s.cfg.idm[w] ∧
      regRead s (BitVec.ofNat 11 (0x020 + w)) = s.cfg.omsk[w]) ∧
    (∀ k : Fin 8, regRead s (BitVec.ofNat 11 (0x030 + k)) = s.cfg.skip[k] ∧
      regRead s (BitVec.ofNat 11 (0x038 + k)) = s.res.pnb[k] ∧ regRead s (BitVec.ofNat 11 (0x040 + k)) = s.res.npnb[k] ∧
      regRead s (BitVec.ofNat 11 (0x048 + k)) = s.res.donemap[k]) ∧
    (∀ j : Fin 4, regRead s (BitVec.ofNat 11 (0x050 + j)) = s.cfg.ivfix[j]) ∧
    (∀ idx : Fin 256,
      regRead s (BitVec.ofNat 11 (0x200 + 2 * idx)) = s.res.bias[idx].extractLsb' 0 32 ∧
      regRead s (BitVec.ofNat 11 (0x201 + 2 * idx)) = s.res.bias[idx].extractLsb' 32 32 ∧
      regRead s (BitVec.ofNat 11 (0x400 + 2 * idx)) = s.res.matchCounts[idx].extractLsb' 0 32 ∧
      regRead s (BitVec.ofNat 11 (0x401 + 2 * idx)) = s.res.matchCounts[idx].extractLsb' 32 32)) ∧
  (∀ (s : State) (L : Lane), s.lanes[0]? = some L → regRead s 0x19D = L.statWord) ∧
  (∀ (s : State) (L : Lane), s.lanes[0]? = some L → s.coord.cst = .idle →
    (∀ (r : SReg) (i : Fin 16), regRead s (BitVec.ofNat 11 (0x100 + 16 * r.id.toNat + i)) = (L.reg r)[i]) ∧
    (∀ j : Fin 8, regRead s (BitVec.ofNat 11 (0x190 + j)) = L.k[j]) ∧
    getBit (regRead s 0x198) 0 = L.fp ∧ getBit (regRead s 0x198) 1 = L.bp ∧
    regRead s 0x199 = L.mc.extractLsb' 0 32 ∧ regRead s 0x19A = L.mc.extractLsb' 32 32 ∧
    regRead s 0x19B = L.tc.extractLsb' 0 32 ∧ regRead s 0x19C = L.tc.extractLsb' 32 32)

/-! ### Matches against trials -/

/-- R195, R26: in a batch `MC ≤ TC` on every lane of it, but for one moment, a running lane between a MATCH that counted and
its END, where `MC = TC + 1` (R193, R194, R214; log 31). No one sees that moment: the lane is running, so no join reads its
counters (R247), and while `BUSY = 1` the window does not show the lane (R71): two busy machines at the same step number,
whatever their lanes hold, answer a window read with the same word (the unspecified word as the model has it, log 9). The
lane's own next step, which is that END, brings `MC ≤ TC` back. -/
def Obligations.MatchesExceedTrialsOnlyBeforeEnd : Prop :=
  (∀ (s t : State) (a : BitVec 11) (mask : Word), s.coord.cst ≠ .idle → t.coord.cst ≠ .idle → s.inp.tick = t.inp.tick →
    windowMask a = some mask → regRead s a = regRead t a) ∧
  ∀ (s : State) (l : Nat) (L : Lane), Inv s → s.coord.cst = .wait → l < s.cfg.workers → s.lanes[l]? = some L →
    (L.mc.toNat ≤ L.tc.toNat ∨
      (L.lrun = .run ∧ (trialProgram s.cfg)[L.upc.toNat]? = some .endUop ∧ L.mc.toNat = L.tc.toNat + 1)) ∧
    (s.joinReady = true → L.mc.toNat ≤ L.tc.toNat) ∧
    (L.lrun = .run → (trialProgram s.cfg)[L.upc.toNat]? = some .endUop →
      ∃ t L', laneStep l s = .next t ∧ t.lanes[l]? = some L' ∧ L'.mc.toNat ≤ L'.tc.toNat)
end

