-- ==== Sys2Proof/Laws/Decode.lean ====
section
/-! SUPPORT. The four nibbles of a word, and each field's encoding read back: what round-trip proofs cite. -/

namespace Sys2Proof

/-- One nibble appended below a number. -/
theorem toNat_append_nibble {n : Nat} (x : BitVec n) (d : BitVec 4) : (x ++ d).toNat = 16 * x.toNat + d.toNat := by
  rw [BitVec.toNat_append, ← Nat.shiftLeft_add_eq_or_of_lt d.isLt, Nat.shiftLeft_eq]
  omega

/-- The value of a word put together from four nibbles. -/
theorem nibbles_toNat (a b c d : BitVec 4) :
    (nibbles a b c d).toNat = 16 * (16 * (16 * a.toNat + b.toNat) + c.toNat) + d.toNat := by
  refine (toNat_append_nibble (a ++ b ++ c) d).trans ?_
  rw [toNat_append_nibble, toNat_append_nibble]

theorem nibbles_op (a b c d : BitVec 4) : (nibbles a b c d).extractLsb' 12 4 = a := by
  apply BitVec.eq_of_toNat_eq
  rw [BitVec.extractLsb'_toNat, nibbles_toNat, Nat.shiftRight_eq_div_pow]
  omega

theorem nibbles_n2 (a b c d : BitVec 4) : (nibbles a b c d).extractLsb' 8 4 = b := by
  apply BitVec.eq_of_toNat_eq
  rw [BitVec.extractLsb'_toNat, nibbles_toNat, Nat.shiftRight_eq_div_pow]
  omega

theorem nibbles_n1 (a b c d : BitVec 4) : (nibbles a b c d).extractLsb' 4 4 = c := by
  apply BitVec.eq_of_toNat_eq
  rw [BitVec.extractLsb'_toNat, nibbles_toNat, Nat.shiftRight_eq_div_pow]
  omega

theorem nibbles_n0 (a b c d : BitVec 4) : (nibbles a b c d).extractLsb' 0 4 = d := by
  apply BitVec.eq_of_toNat_eq
  rw [BitVec.extractLsb'_toNat, nibbles_toNat, Nat.shiftRight_eq_div_pow]
  omega

/-- Every word is its four nibbles. -/
theorem nibbles_of_word (u : Word16) :
    nibbles (u.extractLsb' 12 4) (u.extractLsb' 8 4) (u.extractLsb' 4 4) (u.extractLsb' 0 4) = u := by
  apply BitVec.eq_of_toNat_eq
  simp only [nibbles_toNat, BitVec.extractLsb'_toNat, Nat.shiftRight_eq_div_pow]
  omega

/-- Masking acts nibble by nibble. -/
theorem nibbles_and (a b c d a' b' c' d' : BitVec 4) :
    nibbles a b c d &&& nibbles a' b' c' d' = nibbles (a &&& a') (b &&& b') (c &&& c') (d &&& d') := by
  have h1 : (a ++ b) &&& (a' ++ b') = (a &&& a') ++ (b &&& b') := BitVec.and_append
  have h2 : (a ++ b ++ c) &&& (a' ++ b' ++ c') = (a ++ b &&& (a' ++ b')) ++ (c &&& c') := BitVec.and_append
  have h3 : (a ++ b ++ c ++ d) &&& (a' ++ b' ++ c' ++ d') = (a ++ b ++ c &&& (a' ++ b' ++ c')) ++ (d &&& d') :=
    BitVec.and_append
  rw [h2, h1] at h3
  exact h3

/-- A mask that keeps the opcode nibble alone. -/
theorem nibbles_and_op (a b c d : BitVec 4) : nibbles a b c d &&& 0xF000 = nibbles a 0 0 0 := by
  have h := nibbles_and a b c d 15 0 0 0
  have ha : a &&& 15 = a := BitVec.and_allOnes
  have hz : ∀ x : BitVec 4, x &&& 0 = 0 := fun x => BitVec.and_zero
  rw [ha, hz, hz, hz] at h
  exact h

/-- Decoding four nibbles put together is decoding the nibbles. -/
theorem decode_nibbles (a b c d : BitVec 4) : decode (nibbles a b c d) = decodeNibbles a b c d := by
  simp only [decode, nibbles_op, nibbles_n2, nibbles_n1, nibbles_n0]

@[simp] theorem SReg.ofId_id (r : SReg) : SReg.ofId r.id.toNat = some r := by cases r <;> rfl

@[simp] theorem decodeReg_id (r : SReg) : decodeReg r.id = .ok r := by cases r <;> rfl

theorem SReg.id_le (r : SReg) : r.id.toNat ≤ 8 := by cases r <;> decide

/-- A register field is read exactly when its id is at most 8. -/
theorem decodeReg_ok_iff (f : BitVec 4) (r : SReg) : decodeReg f = .ok r ↔ r.id = f := by
  revert f
  cases r <;> decide

@[simp] theorem Ord.ofBit_bit (o : Ord) : Ord.ofBit o.bit = o := by cases o <;> rfl

@[simp] theorem Ord.bit_ofBit (b : Bool) : (Ord.ofBit b).bit = b := by cases b <;> rfl

@[simp] theorem Rot.ofSel_sel (r : Rot) : Rot.ofSel r.sel = r := by cases r <;> rfl

@[simp] theorem Fill.ofBit_bit (f : Fill) : Fill.ofBit f.bit = f := by cases f <;> rfl

@[simp] theorem Side.ofBit_bit (f : Side) : Side.ofBit f.bit = f := by cases f <;> rfl

end Sys2Proof
end

