-- ==== Sys2Proof/Machine/NegLog2.lean ====
section
/-! DEFINITION. `−log2(|bias|)` in binary64 (46_aggregator_host.md R284): exact where it is a whole number, else one of the
two binary64 numbers around it, which one being the accuracy the spec leaves open (U8, log 24). -/

namespace Sys2Proof.Machine

/-- Binary digits of a logarithm that are worked out: far more than the 105 that decide a binary64 number here. -/
def logDigits : Nat := 192

/-- Fraction bits of the numbers the digits are worked out on. -/
def logWorkBits : Nat := 512

/-- How many times `2^-n` lies below `log2 (y / w)`: one digit by each squaring, every rounding downwards. -/
def log2Below (w : Nat) : (n y : Nat) → Nat
  | 0, _ => 0
  | n + 1, y =>
    let q := y * y / w
    if 2 * w ≤ q then 2 ^ n + log2Below w n (q / 2) else log2Below w n q

/-- How many times `2^-n` lies above `log2 (y / w)`, for a ratio of at most 2: every rounding upwards. -/
def log2Above (w : Nat) : (n y : Nat) → Nat
  | 0, _ => 1
  | n + 1, y =>
    let q := (y * y + (w - 1)) / w
    if 2 * w ≤ q then 2 ^ n + log2Above w n ((q + 1) / 2) else log2Above w n q

namespace F64

/-- `+∞` -/
def infinity : Word64 := 0x7FF0000000000000

/-- `n / d` scaled by `2^q` and rounded down to an integer. -/
def floorScaled (n d : Nat) (q : Int) : Nat := (n <<< q.toNat) / (d <<< (-q).toNat)

/-- The pattern of the largest binary64 number not above `n / d`, `n` and `d` positive. -/
def floorRatio (n d : Nat) : Nat :=
  let e := max (log2Ratio n d) (-1022)
  min ((e + 1022).toNat * 2 ^ 52 + floorScaled n d (52 - e)) (2047 * 2 ^ 52)

/-- A number's magnitude is `2^(exponent - 1074)` times its significand, which is in [1, 2). -/
def exponent (x : Word64) : Nat := (magnitude x).log2

/-- The significand of a number that is not 0, with `logWorkBits` fraction bits. -/
def significand (x : Word64) : Nat := magnitude x <<< logWorkBits >>> exponent x

/-- How many times `2^-logDigits` in `−log2` of a magnitude below 1, given as many of the logarithm of its significand. -/
def negLog2Digits (log2OfSignificand : Nat → Nat) (x : Word64) : Nat :=
  (1074 - exponent x) * 2 ^ logDigits - log2OfSignificand (significand x)

/-- The largest binary64 number not above the lower bound of `−log2` of a magnitude below 1. -/
def negLog2Floor (x : Word64) : Word64 :=
  BitVec.ofNat 64 (floorRatio (negLog2Digits (log2Above (2 ^ logWorkBits) logDigits) x) (2 ^ logDigits))

/-- The smallest binary64 number above the upper bound of `−log2` of a magnitude below 1. -/
def negLog2Ceil (x : Word64) : Word64 :=
  BitVec.ofNat 64 (floorRatio (negLog2Digits (log2Below (2 ^ logWorkBits) logDigits) x) (2 ^ logDigits) + 1)

end F64

/-- `−log2(|bias|)` (R284): `∞` when the bias is 0; the whole number where the magnitude is a power of two, 0 at 1 among
them; else a binary64 number next to the exact value, above or below it as the platform has it (U8, log 24). DESIGN CHOICE
(log 29): the zero at `|bias| = 1` is `+0.0`; the spec leaves its sign open. -/
def negLog2 (bias : Word64) : Word64 :=
  let x := F64.abs bias
  if x = F64.zero then F64.infinity
  else if F64.le x F64.one = false then Config.negLog2Outside x
  else if F64.magnitude x = 2 ^ F64.exponent x then F64.ofNat (1074 - F64.exponent x)
  else if Config.negLog2Up x then F64.negLog2Ceil x
  else F64.negLog2Floor x

end Sys2Proof.Machine
end

