-- ==== Sys2Proof/Laws/NegLog2.lean ====
section
/-! SUPPORT. The digits of the logarithm are sound: `log2Below` and `log2Above` bound the exact logarithm from either side,
said with powers of integers: `2^b · w^(2^n) ≤ y^(2^n)` is `b / 2^n ≤ log2 (y / w)`. -/

namespace Sys2Proof.Machine

/-- One squaring turns a power `2^(n+1)` into a power `2^n`. -/
theorem pow_two_pow_succ (y n : Nat) : y ^ 2 ^ (n + 1) = (y * y) ^ 2 ^ n := by
  rw [Nat.pow_succ', Nat.pow_mul, Nat.pow_two]

/-- A bound on the ratio `q / w`, with `q / w ≤ (y / w)²`, is one on the ratio `y / w`. -/
theorem lower_square {b q w y n : Nat} (h : b * w ^ 2 ^ n ≤ q ^ 2 ^ n) (hq : q * w ≤ y * y) :
    b * w ^ 2 ^ (n + 1) ≤ y ^ 2 ^ (n + 1) := by
  rw [pow_two_pow_succ, pow_two_pow_succ, Nat.mul_pow, ← Nat.mul_assoc]
  calc b * w ^ 2 ^ n * w ^ 2 ^ n ≤ q ^ 2 ^ n * w ^ 2 ^ n := Nat.mul_le_mul_right _ h
    _ = (q * w) ^ 2 ^ n := (Nat.mul_pow ..).symm
    _ ≤ (y * y) ^ 2 ^ n := Nat.pow_le_pow_left hq _

theorem upper_square {b q w y n : Nat} (h : q ^ 2 ^ n ≤ b * w ^ 2 ^ n) (hq : y * y ≤ q * w) :
    y ^ 2 ^ (n + 1) ≤ b * w ^ 2 ^ (n + 1) := by
  rw [pow_two_pow_succ, pow_two_pow_succ, Nat.mul_pow w, ← Nat.mul_assoc]
  calc (y * y) ^ 2 ^ n ≤ (q * w) ^ 2 ^ n := Nat.pow_le_pow_left hq _
    _ = q ^ 2 ^ n * w ^ 2 ^ n := Nat.mul_pow ..
    _ ≤ b * w ^ 2 ^ n * w ^ 2 ^ n := Nat.mul_le_mul_right _ h

/-- A digit 1: the ratio is halved and the bound doubled. -/
theorem lower_digit {b q w n : Nat} (h : 2 ^ b * w ^ 2 ^ n ≤ (q / 2) ^ 2 ^ n) : 2 ^ (2 ^ n + b) * w ^ 2 ^ n ≤ q ^ 2 ^ n := by
  rw [Nat.pow_add, Nat.mul_assoc]
  calc 2 ^ 2 ^ n * (2 ^ b * w ^ 2 ^ n) ≤ 2 ^ 2 ^ n * (q / 2) ^ 2 ^ n := Nat.mul_le_mul_left _ h
    _ = (2 * (q / 2)) ^ 2 ^ n := (Nat.mul_pow ..).symm
    _ ≤ q ^ 2 ^ n := Nat.pow_le_pow_left (Nat.mul_div_le q 2) _

theorem upper_digit {b q w n : Nat} (h : ((q + 1) / 2) ^ 2 ^ n ≤ 2 ^ b * w ^ 2 ^ n) :
    q ^ 2 ^ n ≤ 2 ^ (2 ^ n + b) * w ^ 2 ^ n := by
  rw [Nat.pow_add, Nat.mul_assoc]
  calc q ^ 2 ^ n ≤ (2 * ((q + 1) / 2)) ^ 2 ^ n := Nat.pow_le_pow_left (by omega) _
    _ = 2 ^ 2 ^ n * ((q + 1) / 2) ^ 2 ^ n := Nat.mul_pow ..
    _ ≤ 2 ^ 2 ^ n * (2 ^ b * w ^ 2 ^ n) := Nat.mul_le_mul_left _ h

/-- A quotient rounded up times its divisor is not below the dividend. -/
theorem le_ceil_mul {a w : Nat} (hw : 0 < w) : a ≤ (a + (w - 1)) / w * w := by
  have := Nat.lt_div_mul_add (a := a + (w - 1)) hw
  omega

/-- `log2Below w n y / 2^n` is not above `log2 (y / w)`, for a ratio of at least 1. -/
theorem log2Below_sound {w : Nat} (hw : 0 < w) (n y : Nat) (hy : w ≤ y) : 2 ^ log2Below w n y * w ^ 2 ^ n ≤ y ^ 2 ^ n := by
  induction n generalizing y with
  | zero => simpa [log2Below] using hy
  | succ n ih =>
    have hq : w ≤ y * y / w := (Nat.le_div_iff_mul_le hw).2 (Nat.mul_le_mul hy hy)
    refine lower_square ?_ (Nat.div_mul_le_self (y * y) w)
    simp only [log2Below]
    split
    · exact lower_digit (ih _ (by omega))
    · exact ih _ hq

/-- `log2Above w n y / 2^n` is not below `log2 (y / w)`, for a ratio of at most 2. -/
theorem log2Above_sound {w : Nat} (hw : 0 < w) (n y : Nat) (hy : y ≤ 2 * w) : y ^ 2 ^ n ≤ 2 ^ log2Above w n y * w ^ 2 ^ n := by
  induction n generalizing y with
  | zero => simpa [log2Above] using hy
  | succ n ih =>
    have hq : (y * y + (w - 1)) / w ≤ 4 * w := by
      have hyy : y * y ≤ 2 * w * (2 * w) := Nat.mul_le_mul hy hy
      refine Nat.lt_succ_iff.1 ((Nat.div_lt_iff_lt_mul hw).2 ?_)
      have hsucc : (4 * w).succ * w = 2 * w * (2 * w) + w := by rw [Nat.succ_mul]; ring
      omega
    refine upper_square ?_ (le_ceil_mul hw)
    simp only [log2Above]
    split
    · exact upper_digit (ih _ (by omega))
    · exact ih _ (by omega)

end Sys2Proof.Machine
end

