-- ==== Sys2Proof/Laws/State.lean ====
section
/-! SUPPORT. What every update of the state and of a lane leaves in each field: one lemma per field per update, so that
no later proof unfolds a record update. -/

namespace Sys2Proof.Machine

/-! ### Updates of the whole state -/

@[simp] theorem State.putLane_lanes (s : State) (l : Nat) (L : Lane) : (s.putLane l L).lanes = s.lanes.set l L := rfl
@[simp] theorem State.putLane_cfg (s : State) (l : Nat) (L : Lane) : (s.putLane l L).cfg = s.cfg := rfl
@[simp] theorem State.putLane_status (s : State) (l : Nat) (L : Lane) : (s.putLane l L).status = s.status := rfl
@[simp] theorem State.putLane_res (s : State) (l : Nat) (L : Lane) : (s.putLane l L).res = s.res := rfl
@[simp] theorem State.putLane_coord (s : State) (l : Nat) (L : Lane) : (s.putLane l L).coord = s.coord := rfl
@[simp] theorem State.putLane_inp (s : State) (l : Nat) (L : Lane) : (s.putLane l L).inp = s.inp := rfl

@[simp] theorem State.issuedFrom_lanes (s : State) (i : Issue) : (s.issuedFrom i).lanes = s.lanes := rfl
@[simp] theorem State.issuedFrom_cfg (s : State) (i : Issue) : (s.issuedFrom i).cfg = s.cfg := rfl
@[simp] theorem State.issuedFrom_status (s : State) (i : Issue) : (s.issuedFrom i).status = s.status := rfl
@[simp] theorem State.issuedFrom_res (s : State) (i : Issue) : (s.issuedFrom i).res = s.res := rfl
@[simp] theorem State.issuedFrom_coord (s : State) (i : Issue) : (s.issuedFrom i).coord = s.coord := rfl
@[simp] theorem State.issuedFrom_inp (s : State) (i : Issue) : (s.issuedFrom i).inp = { s.inp with issue := i } := rfl

@[simp] theorem State.mapLanes_lanes (s : State) (f : Nat → Lane → Lane) : (s.mapLanes f).lanes = mapLanesFrom f 0 s.lanes := rfl
@[simp] theorem State.mapLanes_cfg (s : State) (f : Nat → Lane → Lane) : (s.mapLanes f).cfg = s.cfg := rfl
@[simp] theorem State.mapLanes_status (s : State) (f : Nat → Lane → Lane) : (s.mapLanes f).status = s.status := rfl
@[simp] theorem State.mapLanes_res (s : State) (f : Nat → Lane → Lane) : (s.mapLanes f).res = s.res := rfl
@[simp] theorem State.mapLanes_coord (s : State) (f : Nat → Lane → Lane) : (s.mapLanes f).coord = s.coord := rfl
@[simp] theorem State.mapLanes_inp (s : State) (f : Nat → Lane → Lane) : (s.mapLanes f).inp = s.inp := rfl

@[simp] theorem State.clearStatus_lanes (s : State) : (s.clearStatus).lanes = s.lanes := rfl
@[simp] theorem State.clearStatus_cfg (s : State) : (s.clearStatus).cfg = s.cfg := rfl
@[simp] theorem State.clearStatus_status (s : State) : (s.clearStatus).status = StatusReg.clear := rfl
@[simp] theorem State.clearStatus_res (s : State) : (s.clearStatus).res = s.res := rfl
@[simp] theorem State.clearStatus_coord (s : State) : (s.clearStatus).coord = s.coord := rfl
@[simp] theorem State.clearStatus_inp (s : State) : (s.clearStatus).inp = s.inp := rfl

@[simp] theorem State.takeTurn_lanes (s : State) : (s.takeTurn).lanes = s.lanes := rfl
@[simp] theorem State.takeTurn_cfg (s : State) : (s.takeTurn).cfg = s.cfg := rfl
@[simp] theorem State.takeTurn_status (s : State) : (s.takeTurn).status = s.status := rfl
@[simp] theorem State.takeTurn_res (s : State) : (s.takeTurn).res = s.res := rfl
@[simp] theorem State.takeTurn_coord (s : State) : (s.takeTurn).coord = s.coord := rfl
@[simp] theorem State.takeTurn_inp (s : State) : (s.takeTurn).inp = { s.inp with sched := s.inp.sched.tail, tick := s.inp.tick + 1 } := rfl

@[simp] theorem State.refuseStart_lanes (s : State) (e : StartError) : (s.refuseStart e).lanes = s.lanes := rfl
@[simp] theorem State.refuseStart_cfg (s : State) (e : StartError) : (s.refuseStart e).cfg = s.cfg := rfl
@[simp] theorem State.refuseStart_status (s : State) (e : StartError) : (s.refuseStart e).status = { s.status with cfgerr := true, cfgcode := some e } := rfl
@[simp] theorem State.refuseStart_res (s : State) (e : StartError) : (s.refuseStart e).res = s.res := rfl
@[simp] theorem State.refuseStart_coord (s : State) (e : StartError) : (s.refuseStart e).coord = s.coord := rfl
@[simp] theorem State.refuseStart_inp (s : State) (e : StartError) : (s.refuseStart e).inp = s.inp := rfl

@[simp] theorem State.acceptStart_lanes (s : State) : (s.acceptStart).lanes = mapLanesFrom (fun l L => L.atStart s.inp.tick l) 0 s.lanes := rfl
@[simp] theorem State.acceptStart_cfg (s : State) : (s.acceptStart).cfg = s.cfg := rfl
@[simp] theorem State.acceptStart_status (s : State) : (s.acceptStart).status = { StatusReg.clear with thrdef := thresholdOutOfRange s.cfg.thr } := rfl
@[simp] theorem State.acceptStart_res (s : State) : (s.acceptStart).res = ResultRegs.clear := rfl
@[simp] theorem State.acceptStart_coord (s : State) : (s.acceptStart).coord = { cst := .scan, cidx := 0, threff := effectiveThreshold s.cfg.thr } := rfl
@[simp] theorem State.acceptStart_inp (s : State) : (s.acceptStart).inp = s.inp := rfl

@[simp] theorem State.dispatchBatch_lanes (s : State) : (s.dispatchBatch).lanes = mapLanesFrom (fun l L => if l < s.cfg.workers then L.dispatch else L) 0 s.lanes := rfl
@[simp] theorem State.dispatchBatch_cfg (s : State) : (s.dispatchBatch).cfg = { s.cfg with target := targetOf s.coord.cidx } := rfl
@[simp] theorem State.dispatchBatch_status (s : State) : (s.dispatchBatch).status = s.status := rfl
@[simp] theorem State.dispatchBatch_res (s : State) : (s.dispatchBatch).res = s.res := rfl
@[simp] theorem State.dispatchBatch_coord (s : State) : (s.dispatchBatch).coord = { s.coord with cst := .wait } := rfl
@[simp] theorem State.dispatchBatch_inp (s : State) : (s.dispatchBatch).inp = s.inp := rfl

@[simp] theorem State.complete_lanes (s : State) : (s.complete).lanes = s.lanes := rfl
@[simp] theorem State.complete_cfg (s : State) : (s.complete).cfg = s.cfg := rfl
@[simp] theorem State.complete_status (s : State) : (s.complete).status = { s.status with done := true } := rfl
@[simp] theorem State.complete_res (s : State) : (s.complete).res = s.res := rfl
@[simp] theorem State.complete_coord (s : State) : (s.complete).coord = { s.coord with cst := .idle } := rfl
@[simp] theorem State.complete_inp (s : State) : (s.complete).inp = s.inp := rfl

@[simp] theorem State.countProgress_lanes (s : State) : (s.countProgress).lanes = s.lanes := rfl
@[simp] theorem State.countProgress_cfg (s : State) : (s.countProgress).cfg = s.cfg := rfl
@[simp] theorem State.countProgress_status (s : State) : (s.countProgress).status = s.status := rfl
@[simp] theorem State.countProgress_res (s : State) : (s.countProgress).res = { s.res with progress := s.res.progress + 1 } := rfl
@[simp] theorem State.countProgress_coord (s : State) : (s.countProgress).coord = { s.coord with cst := .scan, cidx := s.coord.cidx + 1 } := rfl
@[simp] theorem State.countProgress_inp (s : State) : (s.countProgress).inp = s.inp := rfl

@[simp] theorem State.releaseBatch_lanes (s : State) : (s.releaseBatch).lanes = mapLanesFrom (fun l L => if l < s.cfg.workers then (L.forget s.inp.tick l).release else L.forget s.inp.tick l) 0 s.lanes := rfl
@[simp] theorem State.releaseBatch_cfg (s : State) : (s.releaseBatch).cfg = s.cfg := rfl
@[simp] theorem State.releaseBatch_status (s : State) : (s.releaseBatch).status = s.status := rfl
@[simp] theorem State.releaseBatch_res (s : State) : (s.releaseBatch).res = s.res := rfl
@[simp] theorem State.releaseBatch_coord (s : State) : (s.releaseBatch).coord = s.coord := rfl
@[simp] theorem State.releaseBatch_inp (s : State) : (s.releaseBatch).inp = s.inp := rfl

@[simp] theorem State.fatal_lanes (s : State) : (s.fatal).lanes = mapLanesFrom (fun l L => (L.forget s.inp.tick l).release) 0 s.lanes := rfl
@[simp] theorem State.fatal_cfg (s : State) : (s.fatal).cfg = s.cfg := rfl
@[simp] theorem State.fatal_status (s : State) : (s.fatal).status = { s.status with fatal := true } := rfl
@[simp] theorem State.fatal_res (s : State) : (s.fatal).res = s.res := rfl
@[simp] theorem State.fatal_coord (s : State) : (s.fatal).coord = { s.coord with cst := .idle } := rfl
@[simp] theorem State.fatal_inp (s : State) : (s.fatal).inp = s.inp := rfl

@[simp] theorem State.commit_lanes (s : State) (count : Word64) : (s.commit count).lanes = s.releaseBatch.lanes := rfl
@[simp] theorem State.commit_cfg (s : State) (count : Word64) : (s.commit count).cfg = s.cfg := rfl
@[simp] theorem State.commit_status (s : State) (count : Word64) : (s.commit count).status = s.status := rfl
@[simp] theorem State.commit_res (s : State) (count : Word64) : (s.commit count).res = s.res.commit s.coord.cidx.toNat count (biasOf count.toNat s.batchTrials) s.coord.threff := rfl
@[simp] theorem State.commit_coord (s : State) (count : Word64) : (s.commit count).coord = { s.coord with cst := .prog } := rfl
@[simp] theorem State.commit_inp (s : State) (count : Word64) : (s.commit count).inp = s.inp := rfl

@[simp] theorem State.countFaults_lanes (s : State) : (s.countFaults).lanes = s.lanes := by unfold State.countFaults; split <;> rfl
@[simp] theorem State.countFaults_cfg (s : State) : (s.countFaults).cfg = s.cfg := by unfold State.countFaults; split <;> rfl
@[simp] theorem State.countFaults_coord (s : State) : (s.countFaults).coord = s.coord := by unfold State.countFaults; split <;> rfl
@[simp] theorem State.countFaults_inp (s : State) : (s.countFaults).inp = s.inp := by unfold State.countFaults; split <;> rfl

@[simp] theorem State.onLane0_cfg (s : State) (f : Lane → Lane) : (s.onLane0 f).cfg = s.cfg := by unfold State.onLane0; split <;> rfl
@[simp] theorem State.onLane0_status (s : State) (f : Lane → Lane) : (s.onLane0 f).status = s.status := by unfold State.onLane0; split <;> rfl
@[simp] theorem State.onLane0_res (s : State) (f : Lane → Lane) : (s.onLane0 f).res = s.res := by unfold State.onLane0; split <;> rfl
@[simp] theorem State.onLane0_coord (s : State) (f : Lane → Lane) : (s.onLane0 f).coord = s.coord := by unfold State.onLane0; split <;> rfl
@[simp] theorem State.onLane0_inp (s : State) (f : Lane → Lane) : (s.onLane0 f).inp = s.inp := by unfold State.onLane0; split <;> rfl

@[simp] theorem State.resetEvent_lanes (s : State) : (s.resetEvent).lanes = mapLanesFrom (fun l L => Lane.reset s.inp.tick l L.rng L.drawn) 0 s.lanes := rfl
@[simp] theorem State.resetEvent_cfg (s : State) : (s.resetEvent).cfg = CfgRegs.reset s.lanes.length := rfl
@[simp] theorem State.resetEvent_status (s : State) : (s.resetEvent).status = StatusReg.clear := rfl
@[simp] theorem State.resetEvent_res (s : State) : (s.resetEvent).res = ResultRegs.clear := rfl
@[simp] theorem State.resetEvent_coord (s : State) : (s.resetEvent).coord = Coord.reset := rfl
@[simp] theorem State.resetEvent_inp (s : State) : (s.resetEvent).inp = { s.inp with issue := .uopPort } := rfl

/-! ### Updates of a lane -/

@[simp] theorem Lane.putReg_sr (L : Lane) (r : SReg) (v : State16) : (L.putReg r v).sr = L.sr.put r v := rfl
@[simp] theorem Lane.putReg_k (L : Lane) (r : SReg) (v : State16) : (L.putReg r v).k = L.k := rfl
@[simp] theorem Lane.putReg_fp (L : Lane) (r : SReg) (v : State16) : (L.putReg r v).fp = L.fp := rfl
@[simp] theorem Lane.putReg_bp (L : Lane) (r : SReg) (v : State16) : (L.putReg r v).bp = L.bp := rfl
@[simp] theorem Lane.putReg_mc (L : Lane) (r : SReg) (v : State16) : (L.putReg r v).mc = L.mc := rfl
@[simp] theorem Lane.putReg_tc (L : Lane) (r : SReg) (v : State16) : (L.putReg r v).tc = L.tc := rfl
@[simp] theorem Lane.putReg_upc (L : Lane) (r : SReg) (v : State16) : (L.putReg r v).upc = L.upc := rfl
@[simp] theorem Lane.putReg_lrun (L : Lane) (r : SReg) (v : State16) : (L.putReg r v).lrun = L.lrun := rfl
@[simp] theorem Lane.putReg_lf (L : Lane) (r : SReg) (v : State16) : (L.putReg r v).lf = L.lf := rfl
@[simp] theorem Lane.putReg_rng (L : Lane) (r : SReg) (v : State16) : (L.putReg r v).rng = L.rng := rfl
@[simp] theorem Lane.putReg_drawn (L : Lane) (r : SReg) (v : State16) : (L.putReg r v).drawn = L.drawn := rfl

@[simp] theorem Lane.putFlag_sr (L : Lane) (side : Side) (p : Bool) : (L.putFlag side p).sr = L.sr := by cases side <;> rfl
@[simp] theorem Lane.putFlag_k (L : Lane) (side : Side) (p : Bool) : (L.putFlag side p).k = L.k := by cases side <;> rfl
@[simp] theorem Lane.putFlag_mc (L : Lane) (side : Side) (p : Bool) : (L.putFlag side p).mc = L.mc := by cases side <;> rfl
@[simp] theorem Lane.putFlag_tc (L : Lane) (side : Side) (p : Bool) : (L.putFlag side p).tc = L.tc := by cases side <;> rfl
@[simp] theorem Lane.putFlag_upc (L : Lane) (side : Side) (p : Bool) : (L.putFlag side p).upc = L.upc := by cases side <;> rfl
@[simp] theorem Lane.putFlag_lrun (L : Lane) (side : Side) (p : Bool) : (L.putFlag side p).lrun = L.lrun := by cases side <;> rfl
@[simp] theorem Lane.putFlag_lf (L : Lane) (side : Side) (p : Bool) : (L.putFlag side p).lf = L.lf := by cases side <;> rfl
@[simp] theorem Lane.putFlag_rng (L : Lane) (side : Side) (p : Bool) : (L.putFlag side p).rng = L.rng := by cases side <;> rfl
@[simp] theorem Lane.putFlag_drawn (L : Lane) (side : Side) (p : Bool) : (L.putFlag side p).drawn = L.drawn := by cases side <;> rfl

@[simp] theorem Lane.advance_sr (L : Lane) (i : Issue) : (L.advance i).sr = L.sr := by cases i <;> rfl
@[simp] theorem Lane.advance_k (L : Lane) (i : Issue) : (L.advance i).k = L.k := by cases i <;> rfl
@[simp] theorem Lane.advance_fp (L : Lane) (i : Issue) : (L.advance i).fp = L.fp := by cases i <;> rfl
@[simp] theorem Lane.advance_bp (L : Lane) (i : Issue) : (L.advance i).bp = L.bp := by cases i <;> rfl
@[simp] theorem Lane.advance_mc (L : Lane) (i : Issue) : (L.advance i).mc = L.mc := by cases i <;> rfl
@[simp] theorem Lane.advance_tc (L : Lane) (i : Issue) : (L.advance i).tc = L.tc := by cases i <;> rfl
@[simp] theorem Lane.advance_lrun (L : Lane) (i : Issue) : (L.advance i).lrun = L.lrun := by cases i <;> rfl
@[simp] theorem Lane.advance_lf (L : Lane) (i : Issue) : (L.advance i).lf = L.lf := by cases i <;> rfl
@[simp] theorem Lane.advance_rng (L : Lane) (i : Issue) : (L.advance i).rng = L.rng := by cases i <;> rfl
@[simp] theorem Lane.advance_drawn (L : Lane) (i : Issue) : (L.advance i).drawn = L.drawn := by cases i <;> rfl

@[simp] theorem Lane.afterDraw_sr (L : Lane) : (L.afterDraw).sr = L.sr := rfl
@[simp] theorem Lane.afterDraw_k (L : Lane) : (L.afterDraw).k = L.k := rfl
@[simp] theorem Lane.afterDraw_fp (L : Lane) : (L.afterDraw).fp = L.fp := rfl
@[simp] theorem Lane.afterDraw_bp (L : Lane) : (L.afterDraw).bp = L.bp := rfl
@[simp] theorem Lane.afterDraw_mc (L : Lane) : (L.afterDraw).mc = L.mc := rfl
@[simp] theorem Lane.afterDraw_tc (L : Lane) : (L.afterDraw).tc = L.tc := rfl
@[simp] theorem Lane.afterDraw_upc (L : Lane) : (L.afterDraw).upc = L.upc := rfl
@[simp] theorem Lane.afterDraw_lrun (L : Lane) : (L.afterDraw).lrun = L.lrun := rfl
@[simp] theorem Lane.afterDraw_lf (L : Lane) : (L.afterDraw).lf = L.lf := rfl
@[simp] theorem Lane.afterDraw_rng (L : Lane) : (L.afterDraw).rng = L.rng.tail := rfl
@[simp] theorem Lane.afterDraw_drawn (L : Lane) : (L.afterDraw).drawn = L.drawn + 1 := rfl

@[simp] theorem Lane.faulted_sr (L : Lane) (f : LaneFault) : (L.faulted f).sr = L.sr := rfl
@[simp] theorem Lane.faulted_k (L : Lane) (f : LaneFault) : (L.faulted f).k = L.k := rfl
@[simp] theorem Lane.faulted_fp (L : Lane) (f : LaneFault) : (L.faulted f).fp = L.fp := rfl
@[simp] theorem Lane.faulted_bp (L : Lane) (f : LaneFault) : (L.faulted f).bp = L.bp := rfl
@[simp] theorem Lane.faulted_mc (L : Lane) (f : LaneFault) : (L.faulted f).mc = L.mc := rfl
@[simp] theorem Lane.faulted_tc (L : Lane) (f : LaneFault) : (L.faulted f).tc = L.tc := rfl
@[simp] theorem Lane.faulted_upc (L : Lane) (f : LaneFault) : (L.faulted f).upc = L.upc := rfl
@[simp] theorem Lane.faulted_lrun (L : Lane) (f : LaneFault) : (L.faulted f).lrun = .fault := rfl
@[simp] theorem Lane.faulted_lf (L : Lane) (f : LaneFault) : (L.faulted f).lf = some f := rfl
@[simp] theorem Lane.faulted_rng (L : Lane) (f : LaneFault) : (L.faulted f).rng = L.rng := rfl
@[simp] theorem Lane.faulted_drawn (L : Lane) (f : LaneFault) : (L.faulted f).drawn = L.drawn := rfl

@[simp] theorem Lane.release_sr (L : Lane) : (L.release).sr = L.sr := rfl
@[simp] theorem Lane.release_k (L : Lane) : (L.release).k = L.k := rfl
@[simp] theorem Lane.release_fp (L : Lane) : (L.release).fp = L.fp := rfl
@[simp] theorem Lane.release_bp (L : Lane) : (L.release).bp = L.bp := rfl
@[simp] theorem Lane.release_mc (L : Lane) : (L.release).mc = L.mc := rfl
@[simp] theorem Lane.release_tc (L : Lane) : (L.release).tc = L.tc := rfl
@[simp] theorem Lane.release_upc (L : Lane) : (L.release).upc = L.upc := rfl
@[simp] theorem Lane.release_lrun (L : Lane) : (L.release).lrun = .idle := rfl
@[simp] theorem Lane.release_lf (L : Lane) : (L.release).lf = L.lf := rfl
@[simp] theorem Lane.release_rng (L : Lane) : (L.release).rng = L.rng := rfl
@[simp] theorem Lane.release_drawn (L : Lane) : (L.release).drawn = L.drawn := rfl

@[simp] theorem Lane.forget_sr (L : Lane) (tick l : Nat) : (L.forget tick l).sr = SRFile.unspecified tick l := rfl
@[simp] theorem Lane.forget_k (L : Lane) (tick l : Nat) : (L.forget tick l).k = Config.scratchKey tick l := rfl
@[simp] theorem Lane.forget_fp (L : Lane) (tick l : Nat) : (L.forget tick l).fp = Config.scratchFlag tick l .fwd := rfl
@[simp] theorem Lane.forget_bp (L : Lane) (tick l : Nat) : (L.forget tick l).bp = Config.scratchFlag tick l .bwd := rfl
@[simp] theorem Lane.forget_mc (L : Lane) (tick l : Nat) : (L.forget tick l).mc = L.mc := rfl
@[simp] theorem Lane.forget_tc (L : Lane) (tick l : Nat) : (L.forget tick l).tc = L.tc := rfl
@[simp] theorem Lane.forget_upc (L : Lane) (tick l : Nat) : (L.forget tick l).upc = L.upc := rfl
@[simp] theorem Lane.forget_lrun (L : Lane) (tick l : Nat) : (L.forget tick l).lrun = L.lrun := rfl
@[simp] theorem Lane.forget_lf (L : Lane) (tick l : Nat) : (L.forget tick l).lf = L.lf := rfl
@[simp] theorem Lane.forget_rng (L : Lane) (tick l : Nat) : (L.forget tick l).rng = L.rng := rfl
@[simp] theorem Lane.forget_drawn (L : Lane) (tick l : Nat) : (L.forget tick l).drawn = L.drawn := rfl

@[simp] theorem Lane.dispatch_sr (L : Lane) : (L.dispatch).sr = L.sr := rfl
@[simp] theorem Lane.dispatch_k (L : Lane) : (L.dispatch).k = L.k := rfl
@[simp] theorem Lane.dispatch_fp (L : Lane) : (L.dispatch).fp = L.fp := rfl
@[simp] theorem Lane.dispatch_bp (L : Lane) : (L.dispatch).bp = L.bp := rfl
@[simp] theorem Lane.dispatch_mc (L : Lane) : (L.dispatch).mc = 0 := rfl
@[simp] theorem Lane.dispatch_tc (L : Lane) : (L.dispatch).tc = 0 := rfl
@[simp] theorem Lane.dispatch_upc (L : Lane) : (L.dispatch).upc = 0 := rfl
@[simp] theorem Lane.dispatch_lrun (L : Lane) : (L.dispatch).lrun = .run := rfl
@[simp] theorem Lane.dispatch_lf (L : Lane) : (L.dispatch).lf = none := rfl
@[simp] theorem Lane.dispatch_rng (L : Lane) : (L.dispatch).rng = L.rng := rfl
@[simp] theorem Lane.dispatch_drawn (L : Lane) : (L.dispatch).drawn = L.drawn := rfl

@[simp] theorem Lane.atStart_sr (L : Lane) (tick l : Nat) : (L.atStart tick l).sr = SRFile.unspecified tick l := rfl
@[simp] theorem Lane.atStart_k (L : Lane) (tick l : Nat) : (L.atStart tick l).k = Config.scratchKey tick l := rfl
@[simp] theorem Lane.atStart_fp (L : Lane) (tick l : Nat) : (L.atStart tick l).fp = Config.scratchFlag tick l .fwd := rfl
@[simp] theorem Lane.atStart_bp (L : Lane) (tick l : Nat) : (L.atStart tick l).bp = Config.scratchFlag tick l .bwd := rfl
@[simp] theorem Lane.atStart_mc (L : Lane) (tick l : Nat) : (L.atStart tick l).mc = 0 := rfl
@[simp] theorem Lane.atStart_tc (L : Lane) (tick l : Nat) : (L.atStart tick l).tc = 0 := rfl
@[simp] theorem Lane.atStart_upc (L : Lane) (tick l : Nat) : (L.atStart tick l).upc = 0 := rfl
@[simp] theorem Lane.atStart_lrun (L : Lane) (tick l : Nat) : (L.atStart tick l).lrun = .idle := rfl
@[simp] theorem Lane.atStart_lf (L : Lane) (tick l : Nat) : (L.atStart tick l).lf = none := rfl
@[simp] theorem Lane.atStart_rng (L : Lane) (tick l : Nat) : (L.atStart tick l).rng = L.rng := rfl
@[simp] theorem Lane.atStart_drawn (L : Lane) (tick l : Nat) : (L.atStart tick l).drawn = L.drawn := rfl

@[simp] theorem Lane.countMatch_sr (L : Lane) : (L.countMatch).sr = L.sr := by unfold Lane.countMatch; split <;> rfl
@[simp] theorem Lane.countMatch_k (L : Lane) : (L.countMatch).k = L.k := by unfold Lane.countMatch; split <;> rfl
@[simp] theorem Lane.countMatch_fp (L : Lane) : (L.countMatch).fp = L.fp := by unfold Lane.countMatch; split <;> rfl
@[simp] theorem Lane.countMatch_bp (L : Lane) : (L.countMatch).bp = L.bp := by unfold Lane.countMatch; split <;> rfl
@[simp] theorem Lane.countMatch_tc (L : Lane) : (L.countMatch).tc = L.tc := by unfold Lane.countMatch; split <;> rfl
@[simp] theorem Lane.countMatch_upc (L : Lane) : (L.countMatch).upc = L.upc := by unfold Lane.countMatch; split <;> rfl
@[simp] theorem Lane.countMatch_lrun (L : Lane) : (L.countMatch).lrun = L.lrun := by unfold Lane.countMatch; split <;> rfl
@[simp] theorem Lane.countMatch_lf (L : Lane) : (L.countMatch).lf = L.lf := by unfold Lane.countMatch; split <;> rfl
@[simp] theorem Lane.countMatch_rng (L : Lane) : (L.countMatch).rng = L.rng := by unfold Lane.countMatch; split <;> rfl
@[simp] theorem Lane.countMatch_drawn (L : Lane) : (L.countMatch).drawn = L.drawn := by unfold Lane.countMatch; split <;> rfl

@[simp] theorem Lane.endTrial_sr (L : Lane) (n : Word64) (i : Issue) : (L.endTrial n i).sr = L.sr := by
  unfold Lane.endTrial
  cases i with
  | uopPort => rfl
  | program l => dsimp only; split <;> rfl
@[simp] theorem Lane.endTrial_k (L : Lane) (n : Word64) (i : Issue) : (L.endTrial n i).k = L.k := by
  unfold Lane.endTrial
  cases i with
  | uopPort => rfl
  | program l => dsimp only; split <;> rfl
@[simp] theorem Lane.endTrial_fp (L : Lane) (n : Word64) (i : Issue) : (L.endTrial n i).fp = L.fp := by
  unfold Lane.endTrial
  cases i with
  | uopPort => rfl
  | program l => dsimp only; split <;> rfl
@[simp] theorem Lane.endTrial_bp (L : Lane) (n : Word64) (i : Issue) : (L.endTrial n i).bp = L.bp := by
  unfold Lane.endTrial
  cases i with
  | uopPort => rfl
  | program l => dsimp only; split <;> rfl
@[simp] theorem Lane.endTrial_mc (L : Lane) (n : Word64) (i : Issue) : (L.endTrial n i).mc = L.mc := by
  unfold Lane.endTrial
  cases i with
  | uopPort => rfl
  | program l => dsimp only; split <;> rfl
@[simp] theorem Lane.endTrial_tc (L : Lane) (n : Word64) (i : Issue) : (L.endTrial n i).tc = L.tc + 1 := by
  unfold Lane.endTrial
  cases i with
  | uopPort => rfl
  | program l => dsimp only; split <;> rfl
@[simp] theorem Lane.endTrial_lf (L : Lane) (n : Word64) (i : Issue) : (L.endTrial n i).lf = L.lf := by
  unfold Lane.endTrial
  cases i with
  | uopPort => rfl
  | program l => dsimp only; split <;> rfl
@[simp] theorem Lane.endTrial_rng (L : Lane) (n : Word64) (i : Issue) : (L.endTrial n i).rng = L.rng := by
  unfold Lane.endTrial
  cases i with
  | uopPort => rfl
  | program l => dsimp only; split <;> rfl
@[simp] theorem Lane.endTrial_drawn (L : Lane) (n : Word64) (i : Issue) : (L.endTrial n i).drawn = L.drawn := by
  unfold Lane.endTrial
  cases i with
  | uopPort => rfl
  | program l => dsimp only; split <;> rfl

/-! ### The parts of an update that depend on a case -/

@[simp] theorem Lane.advance_uopPort (L : Lane) : L.advance .uopPort = L := rfl
@[simp] theorem Lane.advance_program_upc (L : Lane) (l : Nat) : (L.advance (.program l)).upc = L.upc + 1 := rfl
@[simp] theorem Lane.putFlag_fwd_fp (L : Lane) (p : Bool) : (L.putFlag .fwd p).fp = p := rfl
@[simp] theorem Lane.putFlag_fwd_bp (L : Lane) (p : Bool) : (L.putFlag .fwd p).bp = L.bp := rfl
@[simp] theorem Lane.putFlag_bwd_fp (L : Lane) (p : Bool) : (L.putFlag .bwd p).fp = L.fp := rfl
@[simp] theorem Lane.putFlag_bwd_bp (L : Lane) (p : Bool) : (L.putFlag .bwd p).bp = p := rfl

@[simp] theorem State.issuedFrom_issue (s : State) (i : Issue) : (s.issuedFrom i).inp.issue = i := rfl
@[simp] theorem State.busy_issuedFrom (s : State) (i : Issue) : (s.issuedFrom i).busy = s.busy := rfl
@[simp] theorem State.busy_putLane (s : State) (l : Nat) (L : Lane) : (s.putLane l L).busy = s.busy := rfl
@[simp] theorem State.busy_takeTurn (s : State) : s.takeTurn.busy = s.busy := rfl

/-- `BUSY = 1` exactly when `CST ≠ C_IDLE` (R240). -/
theorem State.busy_eq_true_iff (s : State) : s.busy = true ↔ s.coord.cst ≠ .idle := by
  simp [State.busy]

theorem State.busy_eq_false_iff (s : State) : s.busy = false ↔ s.coord.cst = .idle := by
  simp [State.busy]

end Sys2Proof.Machine
end

