-- ==== Sys2Proof/Laws/Registers.lean ====
section
/-! SUPPORT. Read after write for the register file, for the lanes, and for the bits of a map; what `insertKey`,
`initConstIv` and `toggleKeyBit` leave in each position. -/

namespace Sys2Proof.Machine

/-! ### State registers (R21) -/

@[simp] theorem SRFile.get_put_same (f : SRFile) (r : SReg) (v : State16) : (f.put r v).get r = v := by
  cases r <;> rfl

theorem SRFile.get_put_ne (f : SRFile) {r q : SReg} (v : State16) (h : q ≠ r) : (f.put r v).get q = f.get q := by
  cases r <;> cases q <;> first | rfl | exact absurd rfl h

@[simp] theorem SRFile.put_get_same (f : SRFile) (r : SReg) : f.put r (f.get r) = f := by
  cases r <;> rfl

@[simp] theorem SRFile.put_put_same (f : SRFile) (r : SReg) (v w : State16) : (f.put r v).put r w = f.put r w := by
  cases r <;> rfl

/-- Two register files that read alike everywhere are the same. -/
theorem SRFile.ext_get {f g : SRFile} (h : ∀ r, f.get r = g.get r) : f = g := by
  obtain ⟨⟩ := f
  obtain ⟨⟩ := g
  simp only [SRFile.mk.injEq]
  exact ⟨h .X, h .XP, h .XR, h .XPR, h .SUM, h .SUMP, h .M, h .MP, h .D⟩

@[simp] theorem Lane.reg_putReg_same (L : Lane) (r : SReg) (v : State16) : (L.putReg r v).reg r = v :=
  SRFile.get_put_same _ _ _

theorem Lane.reg_putReg_ne (L : Lane) {r q : SReg} (v : State16) (h : q ≠ r) : (L.putReg r v).reg q = L.reg q :=
  SRFile.get_put_ne _ _ h

@[simp] theorem Lane.reg_advance (L : Lane) (i : Issue) (r : SReg) : (L.advance i).reg r = L.reg r := by
  cases i <;> rfl

@[simp] theorem Lane.reg_faulted (L : Lane) (f : LaneFault) (r : SReg) : (L.faulted f).reg r = L.reg r := rfl

@[simp] theorem Lane.reg_afterDraw (L : Lane) (r : SReg) : L.afterDraw.reg r = L.reg r := rfl

/-! ### Lanes -/

theorem State.lane_putLane_same (s : State) (l : Nat) (L L' : Lane) (h : s.lanes[l]? = some L) :
    (s.putLane l L').lanes[l]? = some L' := by
  obtain ⟨hl, -⟩ := List.getElem?_eq_some_iff.mp h
  simp [hl]

theorem State.lane_putLane_ne (s : State) {l m : Nat} (L' : Lane) (h : m ≠ l) :
    (s.putLane l L').lanes[m]? = s.lanes[m]? := by
  simp [List.getElem?_set_ne (Ne.symm h)]

@[simp] theorem State.length_putLane (s : State) (l : Nat) (L : Lane) : (s.putLane l L).lanes.length = s.lanes.length := by
  simp

@[simp] theorem length_mapLanesFrom (f : Nat → Lane → Lane) (l : Nat) (ls : List Lane) :
    (mapLanesFrom f l ls).length = ls.length := by
  induction ls generalizing l with
  | nil => rfl
  | cons L rest ih => simp [mapLanesFrom, ih]

/-- Lane `m` of a mapped list of lanes. -/
theorem getElem?_mapLanesFrom (f : Nat → Lane → Lane) (l m : Nat) (ls : List Lane) :
    (mapLanesFrom f l ls)[m]? = ls[m]?.map (f (l + m)) := by
  induction ls generalizing l m with
  | nil => simp [mapLanesFrom]
  | cons L rest ih =>
    cases m with
    | zero => simp [mapLanesFrom]
    | succ m => simp [mapLanesFrom, ih, Nat.add_comm, Nat.add_left_comm]

/-- What a mapped list of lanes holds. -/
theorem mem_mapLanesFrom {f : Nat → Lane → Lane} {l : Nat} {ls : List Lane} {L : Lane} :
    L ∈ mapLanesFrom f l ls ↔ ∃ m M, ls[m]? = some M ∧ L = f (l + m) M := by
  rw [List.mem_iff_getElem?]
  simp only [getElem?_mapLanesFrom, Option.map_eq_some_iff]
  constructor
  · rintro ⟨m, M, hM, rfl⟩
    exact ⟨m, M, hM, rfl⟩
  · rintro ⟨m, M, hM, rfl⟩
    exact ⟨m, M, hM, rfl⟩

/-! ### Maps (R37, R44) -/

/-- Setting one bit of a map sets that bit and no other. -/
theorem mapBit_mapSet (m : Map256) (idx j : Nat) (hidx : idx < 256) :
    mapBit (mapSet m idx) j = (mapBit m j || decide (j = idx)) := by
  have hi : idx / 32 < 8 := by omega
  unfold mapBit mapSet
  by_cases hq : j / 32 = idx / 32
  · have hj : j / 32 < 8 := by omega
    have hm : j % 32 < 32 := Nat.mod_lt _ (by omega)
    have hm' : idx % 32 < 32 := Nat.mod_lt _ (by omega)
    simp only [hq, hi, Vector.getElem?_eq_getElem, Option.getD_some, getBit]
    by_cases he : j = idx
    · subst he
      simp [hm]
    · have : j % 32 ≠ idx % 32 := fun h => he (by omega)
      simp [he]
      omega
  · have he : j ≠ idx := fun h => hq (by rw [h])
    simp [Ne.symm hq, he]

@[simp] theorem mapBit_zero (j : Nat) : mapBit (Vector.replicate 8 0#32) j = false := by
  unfold mapBit
  by_cases h : j / 32 < 8
  · simp [h, getBit]
  · simp [h]

/-- A map has no bit at or above 256. -/
theorem mapBit_of_le (m : Map256) {j : Nat} (h : 256 ≤ j) : mapBit m j = false := by
  have : ¬ j / 32 < 8 := by omega
  simp [mapBit, this]

/-! ### Key and IV positions (R22, R144, R145) -/

/-- `insertKey` writes exactly words 1 to 4 and 11 to 14. -/
theorem getElem_insertKey (S : State16) (K : KeyWords) (i : Nat) (hi : i < 16) :
    (insertKey S K)[i] =
      if h : 1 ≤ i ∧ i ≤ 4 then K[i - 1] else if h : 11 ≤ i ∧ i ≤ 14 then K[i - 7] else S[i] := by
  interval_cases i <;> simp [insertKey]

/-- `initConstIv` writes exactly words 0, 5, 10, 15 and 6 to 9. -/
theorem getElem_initConstIv (m : KeyMode) (iv : Vector Word 4) (S : State16) (i : Nat) (hi : i < 16) :
    (initConstIv m iv S)[i] =
      if i = 0 then Config.constants m 0 else if i = 5 then Config.constants m 1
      else if i = 10 then Config.constants m 2 else if i = 15 then Config.constants m 3
      else if h : 6 ≤ i ∧ i ≤ 9 then iv[i - 6] else S[i] := by
  interval_cases i <;> simp [initConstIv]

theorem getElem_toggleKeyBit (K : KeyWords) (j : Fin 8) (b i : Nat) (hi : i < 8) :
    (toggleKeyBit K j b)[i] = if i = j.val then toggleBit K[i] b else K[i] := by
  by_cases h : i = j.val
  · subst h
    simp [toggleKeyBit]
  · simp [toggleKeyBit, h, Ne.symm h]

end Sys2Proof.Machine
end

