-- ==== Sys2Proof/Laws/Ops.lean ====
section
/-! SUPPORT. One lemma for each shared operation that says once everything it can do: the issuing lane, retiring a
micro-op, drawing words, taking a fault, and what `exec` can answer. -/

namespace Sys2Proof.Machine

/-! ### The issuing lane -/

theorem onLane_of_issuedOn {s : State} {L : Lane} (h : IssuedOn s L) (k : Lane → Result) : onLane s k = k L := by
  unfold IssuedOn at h
  simp [onLane, h]

theorem IssuedOn.lt {s : State} {L : Lane} (h : IssuedOn s L) : s.inp.issue.lane < s.lanes.length :=
  (List.getElem?_eq_some_iff.mp h).1

/-- Putting a lane changes that lane and nothing else. -/
theorem onlyLane_putLane (s : State) (l : Nat) (L : Lane) : OnlyLane l s (s.putLane l L) where
  cfg := rfl
  status := rfl
  res := rfl
  coord := rfl
  inp := rfl
  count := by simp
  others := fun _ hm => s.lane_putLane_ne L hm

/-- What retiring a micro-op does: it puts the lane the micro-op leaves and moves the micro-PC. -/
theorem completed_retire {s : State} {L M : Lane} (h : IssuedOn s L) (hupc : M.upc = L.upc) (hrun : M.lrun = L.lrun)
    (hlf : M.lf = L.lf) : Completed s (retire s M) L (M.advance s.inp.issue) where
  only := onlyLane_putLane s _ _
  lane := s.lane_putLane_same _ L _ h
  upc := by cases hi : s.inp.issue <;> simp [upcAfter, Lane.advance, hupc]
  lrun := by simp [hrun]
  lf := by simp [hlf]

/-- A micro-op that only puts a new value in one state register. -/
theorem writesReg_of_retire {i : Instr} {s : State} {L : Lane} {r : SReg} {v : State16} (h : IssuedOn s L)
    (hx : exec i s = .next (retire s (L.putReg r v))) : WritesReg i s L r v :=
  ⟨_, _, hx, completed_retire h rfl rfl rfl, by simp, fun q hq => by simp [Lane.reg_putReg_ne L v hq],
    by simp [KeepsKey], by simp [KeepsFlags], by simp [KeepsCounters], by simp [KeepsSource]⟩

/-! ### Draws -/

/-- The lane with its source moved on by `n` draws. -/
def Lane.moved (L : Lane) (n : Nat) : Lane := { L with rng := L.rng.drop n, drawn := L.drawn + n }

@[simp] theorem Lane.moved_zero (L : Lane) : L.moved 0 = L := rfl

@[simp] theorem Lane.moved_sr (L : Lane) (n : Nat) : (L.moved n).sr = L.sr := rfl
@[simp] theorem Lane.moved_k (L : Lane) (n : Nat) : (L.moved n).k = L.k := rfl
@[simp] theorem Lane.moved_fp (L : Lane) (n : Nat) : (L.moved n).fp = L.fp := rfl
@[simp] theorem Lane.moved_bp (L : Lane) (n : Nat) : (L.moved n).bp = L.bp := rfl
@[simp] theorem Lane.moved_mc (L : Lane) (n : Nat) : (L.moved n).mc = L.mc := rfl
@[simp] theorem Lane.moved_tc (L : Lane) (n : Nat) : (L.moved n).tc = L.tc := rfl
@[simp] theorem Lane.moved_upc (L : Lane) (n : Nat) : (L.moved n).upc = L.upc := rfl
@[simp] theorem Lane.moved_lrun (L : Lane) (n : Nat) : (L.moved n).lrun = L.lrun := rfl
@[simp] theorem Lane.moved_lf (L : Lane) (n : Nat) : (L.moved n).lf = L.lf := rfl
@[simp] theorem Lane.moved_rng (L : Lane) (n : Nat) : (L.moved n).rng = L.rng.drop n := rfl
@[simp] theorem Lane.moved_drawn (L : Lane) (n : Nat) : (L.moved n).drawn = L.drawn + n := rfl
@[simp] theorem Lane.reg_moved (L : Lane) (n : Nat) (r : SReg) : (L.moved n).reg r = L.reg r := rfl

theorem Lane.nextDraw_moved (L : Lane) (l n : Nat) : (L.moved n).nextDraw l = L.answer l n := by
  unfold Lane.nextDraw Lane.answer Lane.moved
  cases h : L.rng.drop n with
  | nil =>
    have hn : L.rng.length ≤ n := List.drop_eq_nil_iff.mp h
    simp [List.getElem?_eq_none hn]
  | cons d rest =>
    have hd : L.rng[n]? = some d := by rw [← List.head?_drop, h]; rfl
    simp [hd]

theorem Lane.afterDraw_moved (L : Lane) (n : Nat) : (L.moved n).afterDraw = L.moved (n + 1) := by
  simp [Lane.afterDraw, Lane.moved, List.tail_drop, Nat.add_assoc]

/-- Draws that all answer a word. -/
theorem drawWords_of_answers {l n : Nat} {L : Lane} (w : Vector Word n) (h : L.answersWords l w) :
    drawWords l n L = (some w, L.moved n) := by
  induction n with
  | zero => simp [drawWords, Vector.eq_empty]
  | succ n ih =>
    have hw : w = w.pop.push w.back := by simp
    have hpop : L.answersWords l w.pop := fun j => by
      have := h j.castSucc
      simpa using this
    have hlast : L.answer l n = .word w.back := by
      have := h (Fin.last n)
      simpa [Vector.back] using this
    simp only [drawWords, ih w.pop hpop, Lane.nextDraw_moved, hlast, Lane.afterDraw_moved]
    exact congrArg (fun v => (some v, L.moved (n + 1))) hw.symm

/-- Draws of which number `k` is the first to fail: the failing one is consumed, and none after it. -/
theorem drawWords_of_fail {l n k : Nat} {L : Lane} (hk : k < n) (w : Vector Word k) (h : L.answersWords l w)
    (hf : L.answer l k = .fail) : drawWords l n L = (none, L.moved (k + 1)) := by
  induction n with
  | zero => omega
  | succ n ih =>
    rcases Nat.lt_succ_iff_lt_or_eq.mp hk with hlt | rfl
    · simp [drawWords, ih hlt]
    · simp [drawWords, drawWords_of_answers w h, Lane.nextDraw_moved, hf, Lane.afterDraw_moved]

/-- Whatever the answers, drawing either gives all the words or stops at the first failure. -/
theorem drawWords_cases (l n : Nat) (L : Lane) :
    (∃ w : Vector Word n, L.answersWords l w ∧ drawWords l n L = (some w, L.moved n)) ∨
    (∃ k, k < n ∧ (∃ w : Vector Word k, L.answersWords l w) ∧ L.answer l k = .fail ∧
      drawWords l n L = (none, L.moved (k + 1))) := by
  induction n with
  | zero => exact .inl ⟨#v[], fun j => j.elim0, rfl⟩
  | succ n ih =>
    rcases ih with ⟨w, hw, hd⟩ | ⟨k, hk, hw, hf, -⟩
    · cases ha : L.answer l n with
      | word v =>
        have hv : L.answersWords l (w.push v) := fun j => by
          by_cases hj : j.val < n
          · simpa [Vector.getElem_push, hj] using hw ⟨j, hj⟩
          · have hj' : j.val = n := by omega
            simp [hj', ha]
        exact .inl ⟨_, hv, drawWords_of_answers _ hv⟩
      | fail => exact .inr ⟨n, Nat.lt_succ_self n, ⟨w, hw⟩, ha, drawWords_of_fail (Nat.lt_succ_self n) w hw ha⟩
    · obtain ⟨w, hw⟩ := hw
      exact .inr ⟨k, by omega, ⟨w, hw⟩, hf, drawWords_of_fail (by omega) w hw hf⟩

/-! ### Lane faults -/

/-- What taking a fault does, by R305 in a batch and by R307 on the UOP port, when `n` draws were made first. -/
theorem tookFault_takeLaneFault {s : State} {L : Lane} (h : IssuedOn s L) (f : LaneFault) (n : Nat) :
    ∃ L', TookFault f s (takeLaneFault s (L.moved n) f) L L' ∧ SourceMoved n L L' := by
  unfold IssuedOn at h
  unfold TookFault takeLaneFault
  cases hi : s.inp.issue with
  | uopPort =>
    rw [hi] at h
    refine ⟨L.moved n, ?_, rfl, rfl⟩
    exact {
      status := rfl, cfg := rfl, res := rfl, coord := rfl, inp := rfl
      count := by simp
      others := fun m hm => s.lane_putLane_ne _ hm
      lane := s.lane_putLane_same 0 L _ h
      regs := fun _ => rfl, key := rfl, flags := ⟨rfl, rfl⟩, counters := ⟨rfl, rfl⟩, upc := rfl, lrun := rfl, lf := rfl }
  | program l =>
    rw [hi] at h
    refine ⟨(L.moved n).faulted f, ⟨onlyLane_putLane s l _, s.lane_putLane_same l L _ h, ?_⟩, rfl, rfl⟩
    exact { lrun := rfl, lf := rfl, regs := fun _ => rfl, key := rfl, flags := ⟨rfl, rfl⟩, counters := ⟨rfl, rfl⟩, upc := rfl }

/-! ### Words of a state -/

@[simp] theorem getElem_stateOf (f : Fin 16 → Word) (i : Nat) (h : i < 16) : (stateOf f)[i] = f ⟨i, h⟩ := by
  simp [stateOf]

@[simp] theorem getElem_addState (a b : State16) (i : Nat) (h : i < 16) : (addState a b)[i] = a[i] + b[i] := by
  simp [addState]

@[simp] theorem getElem_subState (a b : State16) (i : Nat) (h : i < 16) : (subState a b)[i] = a[i] - b[i] := by
  simp [subState]

@[simp] theorem getElem_xorState (a b : State16) (i : Nat) (h : i < 16) : (xorState a b)[i] = a[i] ^^^ b[i] := by
  simp [xorState]

/-- Two states with the same words are the same. -/
theorem state_ext {S T : State16} (h : ∀ i (hi : i < 16), S[i] = T[i]) : S = T := Vector.ext h

/-! ### Micro-steps -/

/-- The word of a quartet that the micro-step of rotation `r` writes. -/
def Quartet.target (q : Quartet) : Rot → Fin 16
  | .r7 => q.b
  | .r9 => q.c
  | .r13 => q.d
  | .r18 => q.a

/-- One assignment writes the target word of its quartet and no other. -/
theorem getElem_arxAssign_ne (r : Rot) (S : State16) (q : Quartet) (i : Fin 16) (h : i ≠ q.target r) :
    (arxAssign r S q)[i] = S[i] := by
  cases r <;> simp only [arxAssign, Quartet.target] at * <;>
    exact Vector.getElem_set_ne _ _ fun e => h (Fin.ext e.symm)

/-- The micro-step writes exactly the target word of each quartet of its ordering, reading words of that quartet. -/
theorem arxStep_words (S : State16) (r : Rot) (o : Ord) (q : Quartet) (hq : q ∈ quartets o) :
    (arxStep S r o)[q.a] = (match r with | .r18 => S[q.a] ^^^ rotl32 (S[q.d] + S[q.c]) 18 | _ => S[q.a]) ∧
    (arxStep S r o)[q.b] = (match r with | .r7 => S[q.b] ^^^ rotl32 (S[q.a] + S[q.d]) 7 | _ => S[q.b]) ∧
    (arxStep S r o)[q.c] = (match r with | .r9 => S[q.c] ^^^ rotl32 (S[q.b] + S[q.a]) 9 | _ => S[q.c]) ∧
    (arxStep S r o)[q.d] = (match r with | .r13 => S[q.d] ^^^ rotl32 (S[q.c] + S[q.b]) 13 | _ => S[q.d]) := by
  cases o <;> simp only [quartets, List.mem_cons, List.not_mem_nil, or_false] at hq <;>
    rcases hq with rfl | rfl | rfl | rfl <;> cases r <;> simp [arxStep, quartets, arxAssign]

/-! ### What `exec` can answer -/

/-- The draws of a key, all answered: eight words, or four and their replica (R146). -/
theorem drawKey_cases (key128 : Bool) (l : Nat) (L : Lane) :
    (∃ k n, drawKey key128 l L = (some k, L.moved n)) ∨ (∃ n, drawKey key128 l L = (none, L.moved n)) := by
  cases key128
  · rcases drawWords_cases l 8 L with ⟨w, -, h⟩ | ⟨k, -, -, -, h⟩
    · exact .inl ⟨w, 8, h⟩
    · exact .inr ⟨k + 1, h⟩
  · rcases drawWords_cases l 4 L with ⟨w, -, h⟩ | ⟨k, -, -, -, h⟩
    · exact .inl ⟨_, 4, by simp [drawKey, h]; rfl⟩
    · exact .inr ⟨k + 1, by simp [drawKey, h]⟩

/-! ### One lemma per meaning -/

theorem exec_copy {s : State} {L : Lane} (h : IssuedOn s L) (d r : SReg) :
    exec (.copy d r) s = .next (retire s (L.putReg d (L.reg r))) := by
  simp only [exec, execCopy, onLane_of_issuedOn h]

theorem exec_add {s : State} {L : Lane} (h : IssuedOn s L) (z a b : SReg) :
    exec (.add z a b) s = .next (retire s (L.putReg z (addState (L.reg a) (L.reg b)))) := by
  simp only [exec, execAdd, onLane_of_issuedOn h]

theorem exec_sub {s : State} {L : Lane} (h : IssuedOn s L) (z a b : SReg) :
    exec (.sub z a b) s = .next (retire s (L.putReg z (subState (L.reg a) (L.reg b)))) := by
  simp only [exec, execSub, onLane_of_issuedOn h]

theorem exec_xor {s : State} {L : Lane} (h : IssuedOn s L) (z a b : SReg) :
    exec (.xor z a b) s = .next (retire s (L.putReg z (xorState (L.reg a) (L.reg b)))) := by
  simp only [exec, execXor, onLane_of_issuedOn h]

theorem exec_arx {s : State} {L : Lane} (h : IssuedOn s L) (r : SReg) (rot : Rot) (o : Ord) :
    exec (.arx r rot o) s = .next (retire s (L.putReg r (arxStep (L.reg r) rot o))) := by
  simp only [exec, execArx, onLane_of_issuedOn h]

theorem exec_uarx18 {s : State} {L : Lane} (h : IssuedOn s L) (r : SReg) :
    exec (.uarx18 r) s = .next (retire s (L.putReg r (uarx18 s.cfg.umode (L.reg r)))) := by
  simp only [exec, execUarx18, onLane_of_issuedOn h]

theorem exec_hr1 {s : State} {L : Lane} (h : IssuedOn s L) (r : SReg) (o : Ord) :
    exec (.hr1 r o) s = .next (retire s (L.putReg r (hr1 (L.reg r) o))) := by
  simp only [exec, execHr1, onLane_of_issuedOn h]

theorem exec_hr2 {s : State} {L : Lane} (h : IssuedOn s L) (r : SReg) (o : Ord) :
    exec (.hr2 r o) s = .next (retire s (L.putReg r (hr2 (L.reg r) o))) := by
  simp only [exec, execHr2, onLane_of_issuedOn h]

theorem exec_bhr1 {s : State} {L : Lane} (h : IssuedOn s L) (r : SReg) (o : Ord) :
    exec (.bhr1 r o) s = .next (retire s (L.putReg r (bhr1 (L.reg r) o))) := by
  simp only [exec, execBhr1, onLane_of_issuedOn h]

theorem exec_bhr2 {s : State} {L : Lane} (h : IssuedOn s L) (r : SReg) (o : Ord) :
    exec (.bhr2 r o) s = .next (retire s (L.putReg r (bhr2 (L.reg r) o))) := by
  simp only [exec, execBhr2, onLane_of_issuedOn h]

theorem exec_fround {s : State} {L : Lane} (h : IssuedOn s L) (r : SReg) (idx : Nat) :
    exec (.fround r idx) s = .next (retire s (L.putReg r (fround (L.reg r) idx))) := by
  simp only [exec, execFround, onLane_of_issuedOn h]

theorem exec_bround {s : State} {L : Lane} (h : IssuedOn s L) (r : SReg) (idx : Nat) :
    exec (.bround r idx) s = .next (retire s (L.putReg r (bround (L.reg r) idx))) := by
  simp only [exec, execBround, onLane_of_issuedOn h]

theorem exec_initc_fix {s : State} {L : Lane} (h : IssuedOn s L) (r : SReg) :
    exec (.initc r .fix) s = .next (retire s (L.putReg r (initConstIv s.cfg.keyMode s.cfg.ivfix (L.reg r)))) := by
  simp only [exec, execInitc, onLane_of_issuedOn h]

theorem exec_inskey {s : State} {L : Lane} (h : IssuedOn s L) (r : SReg) :
    exec (.inskey r) s = .next (retire s (L.putReg r (insertKey (L.reg r) L.k))) := by
  simp only [exec, execInskey, onLane_of_issuedOn h]

theorem exec_inj {s : State} {L : Lane} (h : IssuedOn s L) (r : SReg) :
    exec (.inj r) s = .next (retire s (L.putReg r (xorState (L.reg r) s.cfg.idm))) := by
  simp only [exec, execInj, onLane_of_issuedOn h]

theorem exec_par {s : State} {L : Lane} (h : IssuedOn s L) (r : SReg) (f : Side) :
    exec (.par r f) s = .next (retire s (L.putFlag f (maskedParity s.cfg.omsk (L.reg r)))) := by
  simp only [exec, execPar, onLane_of_issuedOn h]

theorem exec_matchUop {s : State} {L : Lane} (h : IssuedOn s L) :
    exec (.matchUop) s = .next (retire s (L.countMatch)) := by
  simp only [exec, execMatch, onLane_of_issuedOn h]

theorem exec_endUop {s : State} {L : Lane} (h : IssuedOn s L) :
    exec .endUop s = .next (s.putLane s.inp.issue.lane (L.endTrial s.cfg.trials s.inp.issue)) := by
  simp only [exec, execEnd, onLane_of_issuedOn h]

theorem exec_tglk {s : State} {L : Lane} (h : IssuedOn s L) :
    exec .tglk s = .next (if badTarget s.cfg then takeLaneFault s L .badTarget
      else retire s { L with k := toggleTarget s.cfg L.k }) := by
  simp only [exec, execTglk, onLane_of_issuedOn h]

theorem exec_initc_rnd_words {s : State} {L : Lane} (h : IssuedOn s L) (r : SReg) (w : Vector Word 4)
    (hw : L.answersWords s.inp.issue.lane w) :
    exec (.initc r .rnd) s =
      .next (retire s ((L.moved 4).putReg r (initConstIv s.cfg.keyMode w (L.reg r)))) := by
  simp only [exec, execInitc, onLane_of_issuedOn h, drawWords_of_answers w hw, Lane.reg_moved]

theorem exec_initc_rnd_fail {s : State} {L : Lane} (h : IssuedOn s L) (r : SReg) {k : Nat} (hk : k < 4)
    (w : Vector Word k) (hw : L.answersWords s.inp.issue.lane w) (hf : L.answer s.inp.issue.lane k = .fail) :
    exec (.initc r .rnd) s = .next (takeLaneFault s (L.moved (k + 1)) .rngFail) := by
  simp only [exec, execInitc, onLane_of_issuedOn h, drawWords_of_fail hk w hw hf]

theorem exec_drawk_some {s : State} {L : Lane} (h : IssuedOn s L) {k : KeyWords} {n : Nat}
    (hd : drawKey s.cfg.key128 s.inp.issue.lane L = (some k, L.moved n)) :
    exec .drawk s = .next (retire s { L.moved n with k := k }) := by
  simp only [exec, execDrawk, onLane_of_issuedOn h, hd]

theorem exec_drawk_none {s : State} {L : Lane} (h : IssuedOn s L) {n : Nat}
    (hd : drawKey s.cfg.key128 s.inp.issue.lane L = (none, L.moved n)) :
    exec .drawk s = .next (takeLaneFault s (L.moved n) .rngFail) := by
  simp only [exec, execDrawk, onLane_of_issuedOn h, hd]

/-- Every micro-op, on a lane that exists, either completes (the lane it leaves is retired), or takes a lane fault, or is
END, which sets the micro-PC itself. -/
theorem exec_cases (i : Instr) {s : State} {L : Lane} (h : IssuedOn s L) :
    (∃ M : Lane, exec i s = .next (retire s M) ∧ M.upc = L.upc ∧ M.lrun = L.lrun ∧ M.lf = L.lf) ∨
    (∃ f n, exec i s = .next (takeLaneFault s (L.moved n) f)) ∨
    (i = .endUop ∧ exec i s = .next (s.putLane s.inp.issue.lane (L.endTrial s.cfg.trials s.inp.issue))) := by
  cases i with
  | drawk =>
    rcases drawKey_cases s.cfg.key128 s.inp.issue.lane L with ⟨k, n, hd⟩ | ⟨n, hd⟩
    · exact .inl ⟨_, exec_drawk_some h hd, rfl, rfl, rfl⟩
    · exact .inr (.inl ⟨_, n, exec_drawk_none h hd⟩)
  | initc r f =>
    cases f with
    | fix => exact .inl ⟨_, exec_initc_fix h r, rfl, rfl, rfl⟩
    | rnd =>
      rcases drawWords_cases s.inp.issue.lane 4 L with ⟨w, hw, -⟩ | ⟨k, hk, ⟨w, hw⟩, hf, -⟩
      · exact .inl ⟨_, exec_initc_rnd_words h r w hw, rfl, rfl, rfl⟩
      · exact .inr (.inl ⟨_, _, exec_initc_rnd_fail h r hk w hw hf⟩)
  | tglk =>
    by_cases hb : badTarget s.cfg
    · exact .inr (.inl ⟨.badTarget, 0, by simp [exec_tglk h, hb]⟩)
    · exact .inl ⟨{ L with k := toggleTarget s.cfg L.k }, by simp [exec_tglk h, hb], rfl, rfl, rfl⟩
  | endUop => exact .inr (.inr ⟨rfl, exec_endUop h⟩)
  | matchUop => exact .inl ⟨_, exec_matchUop h, by simp, by simp, by simp⟩
  | par r f => exact .inl ⟨_, exec_par h r f, by simp, by simp, by simp⟩
  | copy d r => exact .inl ⟨_, exec_copy h d r, rfl, rfl, rfl⟩
  | add z a b => exact .inl ⟨_, exec_add h z a b, rfl, rfl, rfl⟩
  | sub z a b => exact .inl ⟨_, exec_sub h z a b, rfl, rfl, rfl⟩
  | xor z a b => exact .inl ⟨_, exec_xor h z a b, rfl, rfl, rfl⟩
  | arx r rot o => exact .inl ⟨_, exec_arx h r rot o, rfl, rfl, rfl⟩
  | uarx18 r => exact .inl ⟨_, exec_uarx18 h r, rfl, rfl, rfl⟩
  | hr1 r o => exact .inl ⟨_, exec_hr1 h r o, rfl, rfl, rfl⟩
  | hr2 r o => exact .inl ⟨_, exec_hr2 h r o, rfl, rfl, rfl⟩
  | bhr1 r o => exact .inl ⟨_, exec_bhr1 h r o, rfl, rfl, rfl⟩
  | bhr2 r o => exact .inl ⟨_, exec_bhr2 h r o, rfl, rfl, rfl⟩
  | fround r idx => exact .inl ⟨_, exec_fround h r idx, rfl, rfl, rfl⟩
  | bround r idx => exact .inl ⟨_, exec_bround h r idx, rfl, rfl, rfl⟩
  | inskey r => exact .inl ⟨_, exec_inskey h r, rfl, rfl, rfl⟩
  | inj r => exact .inl ⟨_, exec_inj h r, rfl, rfl, rfl⟩

end Sys2Proof.Machine
end

