-- ==== Sys2Proof/Laws/PerInstr.lean ====
section
/-! SUPPORT. Statements made for every instruction, one lemma per constructor: the word an instruction is encoded to is a
word of its own row of the opcode map (R113). -/

namespace Sys2Proof.Laws.Row

/-- A well-formed instruction is encoded to a word of the row with its mnemonic. -/
def Statement (i : Instr) : Prop :=
  i.wellFormed = true → ∃ row ∈ opcodeMap, row.mnemonic = i.mnemonic ∧ row.matches (encode i) = true

/-- The row number `n` of the map fits. -/
theorem of_row {i : Instr} (n : Fin 20) (h : opcodeMap[n].mnemonic = i.mnemonic ∧ opcodeMap[n].matches (encode i) = true) :
    Statement i :=
  fun _ => ⟨opcodeMap[n], List.getElem_mem n.isLt, h⟩

/-- Words of format T: three register ids below the opcode. -/
theorem format_t (row : OpcodeRow) (op : BitVec 4) (hm : row.mask = 0xF000) (hb : row.matchBits = nibbles op 0 0 0)
    (hr : row.regs = [8, 4, 0]) (z a b : SReg) : row.matches (nibbles op z.id a.id b.id) = true := by
  simp only [OpcodeRow.matches, hm, hb, hr, nibbles_and_op, List.all_cons, List.all_nil, nibbles_n2, nibbles_n1, nibbles_n0,
    SReg.id_le, beq_self_eq_true, decide_true, Bool.and_self]

/-- Words of format R: one register id and a round index. -/
theorem format_r (row : OpcodeRow) (op : BitVec 4) (hm : row.mask = 0xF000) (hb : row.matchBits = nibbles op 0 0 0)
    (hr : row.regs = [8]) (s : SReg) (n1 n0 : BitVec 4) : row.matches (nibbles op s.id n1 n0) = true := by
  simp only [OpcodeRow.matches, hm, hb, hr, nibbles_and_op, List.all_cons, List.all_nil, nibbles_n2, SReg.id_le,
    beq_self_eq_true, decide_true, Bool.and_self]

theorem drawk : Statement .drawk := of_row 0 (by decide)

theorem tglk : Statement .tglk := of_row 1 (by decide)

theorem matchUop : Statement .matchUop := of_row 2 (by decide)

theorem endUop : Statement .endUop := of_row 3 (by decide)

theorem copy (dst src : SReg) : Statement (.copy dst src) := of_row 4 (by cases dst <;> cases src <;> decide)

theorem add (z a b : SReg) : Statement (.add z a b) := of_row 5 ⟨rfl, format_t _ 2 rfl rfl rfl z a b⟩

theorem sub (z a b : SReg) : Statement (.sub z a b) := of_row 6 ⟨rfl, format_t _ 3 rfl rfl rfl z a b⟩

theorem xor (z a b : SReg) : Statement (.xor z a b) := of_row 7 ⟨rfl, format_t _ 4 rfl rfl rfl z a b⟩

theorem arx (s : SReg) (r : Rot) (o : Ord) : Statement (.arx s r o) := of_row 8 (by cases s <;> cases r <;> cases o <;> decide)

theorem uarx18 (s : SReg) : Statement (.uarx18 s) := of_row 9 (by cases s <;> decide)

theorem hr1 (s : SReg) (o : Ord) : Statement (.hr1 s o) := of_row 10 (by cases s <;> cases o <;> decide)

theorem hr2 (s : SReg) (o : Ord) : Statement (.hr2 s o) := of_row 11 (by cases s <;> cases o <;> decide)

theorem bhr1 (s : SReg) (o : Ord) : Statement (.bhr1 s o) := of_row 12 (by cases s <;> cases o <;> decide)

theorem bhr2 (s : SReg) (o : Ord) : Statement (.bhr2 s o) := of_row 13 (by cases s <;> cases o <;> decide)

theorem fround (s : SReg) (idx : Nat) : Statement (.fround s idx) := of_row 14 ⟨rfl, format_r _ 8 rfl rfl rfl s _ _⟩

theorem bround (s : SReg) (idx : Nat) : Statement (.bround s idx) := of_row 15 ⟨rfl, format_r _ 9 rfl rfl rfl s _ _⟩

theorem initc (s : SReg) (f : Fill) : Statement (.initc s f) := of_row 16 (by cases s <;> cases f <;> decide)

theorem inskey (s : SReg) : Statement (.inskey s) := of_row 17 (by cases s <;> decide)

theorem inj (s : SReg) : Statement (.inj s) := of_row 18 (by cases s <;> decide)

theorem par (s : SReg) (f : Side) : Statement (.par s f) := of_row 19 (by cases s <;> cases f <;> decide)

end Sys2Proof.Laws.Row
end

