-- ==== Sys2Proof/Machine/Aggregator.lean ====
section
/-! DEFINITION. The host-side contract (46_aggregator_host.md R280 to R286): what host software makes of the result
registers once `STATUS.DONE = 1`. Pure functions beside the machine; no step of the machine calls them (log 24). -/

namespace Sys2Proof.Machine

/-- One per-bit result, "(global_index, bias)" (R280). -/
structure BitResult where
  idx : Nat
  bias : Word64
  deriving DecidableEq, Repr

/-- The `BIAS` entry of an index; `+0.0` past the last. -/
def ResultRegs.biasAt (r : ResultRegs) (idx : Nat) : Word64 := r.bias[idx]?.getD 0

/-- The indices below `key_bit_count` whose bit is set in a map, ascending. -/
def indicesIn (c : CfgRegs) (m : Map256) : List Nat := (List.range c.keyBitCount).filter (mapBit m)

/-- The results of a list of indices. -/
def resultsOf (r : ResultRegs) (l : List Nat) : List BitResult := l.map fun idx => ⟨idx, r.biasAt idx⟩

/-- The raw table (R280). -/
def rawTable (c : CfgRegs) (r : ResultRegs) : List BitResult := resultsOf r (indicesIn c r.donemap)

/-- The PNB list by index (R281 (a)). -/
def pnbByIndex (c : CfgRegs) (r : ResultRegs) : List BitResult := resultsOf r (indicesIn c r.pnb)

/-- The non-PNB list by index (R281 (c)). -/
def nonPnbByIndex (c : CfgRegs) (r : ResultRegs) : List BitResult := resultsOf r (indicesIn c r.npnb)

/-- The skipped set (R280): below `key_bit_count` with no `DONEMAP` bit. -/
def skippedIndices (c : CfgRegs) (r : ResultRegs) : List Nat :=
  (List.range c.keyBitCount).filter fun idx => !mapBit r.donemap idx

/-- The bias vector of length `key_bit_count` (R281 (d)). -/
def biasVector (c : CfgRegs) (r : ResultRegs) : List Word64 := (List.range c.keyBitCount).map r.biasAt

/-- Insert before the first entry that `before x` allows. -/
def insertBefore (before : BitResult → BitResult → Bool) (x : BitResult) : List BitResult → List BitResult
  | [] => [x]
  | y :: ys => if before x y then x :: y :: ys else y :: insertBefore before x ys

/-- A stable sort: an entry goes before those it may stand before, and after none of the entries that preceded it. -/
def stableSort (before : BitResult → BitResult → Bool) (l : List BitResult) : List BitResult :=
  l.foldr (insertBefore before) []

/-- "strict descending of |bias|; when two biases are equal, original insertion order is retained" (R282). -/
def sortByMagnitude (l : List BitResult) : List BitResult :=
  stableSort (fun x y => F64.le (F64.abs y.bias) (F64.abs x.bias)) l

/-- Ascending by index (R282). -/
def sortByIndex (l : List BitResult) : List BitResult := stableSort (fun x y => decide (x.idx ≤ y.idx)) l

/-- The PNB list by |bias| descending (R281 (b)). -/
def pnbByMagnitude (c : CfgRegs) (r : ResultRegs) : List BitResult := sortByMagnitude (pnbByIndex c r)

/-! ### Segments and the P/S map (R283, R285) -/

/-- The maximal runs of 1 bits among the low `n` bits of a word, highest first, as `(hi, lo)`; `top` is the high end of
a run that has begun above bit `n`. -/
def runsBelow (w : Word) : Nat → Option Nat → List (Nat × Nat)
  | 0, none => []
  | 0, some hi => [(hi, 0)]
  | n + 1, top =>
    if getBit w n then runsBelow w n (some (top.getD n))
    else match top with
      | some hi => (hi, n + 1) :: runsBelow w n none
      | none => runsBelow w n none

/-- The runs of one key word of a map (R283): runs never cross a key-word boundary. -/
def segments (w : Word) : List (Nat × Nat) := runsBelow w 32 none

/-- A run of two or more prints as `[hi:lo]`, a run of one as `[b]` (R283). -/
def segmentText (seg : Nat × Nat) : String :=
  if seg.1 = seg.2 then "[" ++ toString seg.1 ++ "]" else "[" ++ toString seg.1 ++ ":" ++ toString seg.2 ++ "]"

/-- The character of a key bit in the P/S map (R285). -/
def psChar (pnb npnb : Word) (b : Nat) : Char := if getBit pnb b then 'p' else if getBit npnb b then 's' else '.'

/-- The 32 characters of a key word, bit 31 leftmost (R285). -/
def psMap (pnb npnb : Word) : List Char := (List.range 32).map fun j => psChar pnb npnb (31 - j)

/-! ### The report (R284, R286) -/

/-- The per-bit bias table grouped by key word (R286): one group for each key word, lowest first, of its 32 bits, bit 0
first, with the default `+0.0` at a skipped bit (R281 (d)). That ascending order is the model's choice (log 33). -/
def biasTable (c : CfgRegs) (r : ResultRegs) : List (List BitResult) :=
  (List.range c.keyWordCount).map fun kw => resultsOf r ((List.range 32).map fun kb => 32 * kw + kb)

/-- An entry of the per-bit `−log2(|bias|)` list: the bit it is for, and the value (R284). -/
structure NegLog2Entry where
  idx : Nat
  value : Word64
  deriving DecidableEq, Repr

/-- The per-bit `−log2(|bias|)` list (R284, R286), ascending by index. DESIGN CHOICE (log 30): a skipped bit has no entry;
the spec does not say whether it has one. -/
def negLog2List (c : CfgRegs) (r : ResultRegs) : List NegLog2Entry :=
  (rawTable c r).map fun b => ⟨b.idx, negLog2 b.bias⟩

/-- The set bits of a state-shaped bitmap as (word, bit) pairs (R35, R36, R286). DESIGN CHOICE (log 33): ascending by word,
then by bit; R286 leaves the order within a list free. -/
def maskPairs (m : State16) : List (Nat × Nat) :=
  (List.finRange 16).flatMap fun w => ((List.range 32).filter (getBit m[w])).map fun b => (w.val, b)

/-- The content items of the report that the registers hold (R286); cipher name, mode tag and comment are free text of
the host. -/
structure Report where
  cipherName : String
  modeTag : String
  comment : String
  keySize : Nat
  wordSize : Nat
  /-- `2·R` -/
  totalHalfRounds : Nat
  /-- `2·R_f` -/
  distinguishingHalfRounds : Nat
  inputDifference : List (Nat × Nat)
  outputMask : List (Nat × Nat)
  threads : Nat
  trialsPerThread : Nat
  trialsPerBatch : Nat
  pnbCount : Nat
  nonPnbCount : Nat
  pnbByIndex : List BitResult
  pnbByMagnitude : List BitResult
  nonPnbByIndex : List BitResult
  biasTable : List (List BitResult)
  pnbSegments : List (List (Nat × Nat))
  nonPnbSegments : List (List (Nat × Nat))
  psMaps : List (List Char)
  negLog2s : List NegLog2Entry
  deriving DecidableEq, Repr

/-- The report of a run (R286). -/
def report (cipherName modeTag comment : String) (c : CfgRegs) (r : ResultRegs) : Report where
  cipherName := cipherName
  modeTag := modeTag
  comment := comment
  keySize := if c.key128 then 128 else 256
  wordSize := 32
  totalHalfRounds := 2 * c.rint + c.rfrac.toNat
  distinguishingHalfRounds := 2 * c.fint + c.ffrac.toNat
  inputDifference := maskPairs c.idm
  outputMask := maskPairs c.omsk
  threads := c.workers
  trialsPerThread := c.trials.toNat
  trialsPerBatch := c.workers * c.trials.toNat
  pnbCount := (r.pnb.toList.map popcount).sum
  nonPnbCount := (r.npnb.toList.map popcount).sum
  pnbByIndex := Machine.pnbByIndex c r
  pnbByMagnitude := Machine.pnbByMagnitude c r
  nonPnbByIndex := Machine.nonPnbByIndex c r
  biasTable := Machine.biasTable c r
  pnbSegments := (r.pnb.toList.take c.keyWordCount).map segments
  nonPnbSegments := (r.npnb.toList.take c.keyWordCount).map segments
  psMaps := ((r.pnb.toList.zip r.npnb.toList).take c.keyWordCount).map fun w => psMap w.1 w.2
  negLog2s := negLog2List c r

end Sys2Proof.Machine
end

