-- ==== Sys2Proof/Machine/Asm.lean ====
section
/-! DEFINITION. The assembler syntax (30_encoding.md R116) and the pseudo-micro-ops (R117): one micro-op per line, a
mnemonic in upper case, then operands separated by commas, destination first; `;` starts a comment. What R116 does not say
(blanks, leading zeros, an empty line) is the model's choice (log 32). -/

namespace Sys2Proof.Machine

/-- A line of assembler text, its comment and the spaces around its parts taken away. -/
structure AsmLine where
  mnemonic : String
  operands : List String
  deriving DecidableEq, Repr

/-- A state register's name (R21, R116). -/
def regName : SReg → String
  | .X => "X"
  | .XP => "XP"
  | .XR => "XR"
  | .XPR => "XPR"
  | .SUM => "SUM"
  | .SUMP => "SUMP"
  | .M => "M"
  | .MP => "MP"
  | .D => "D"

/-- The register of a name. -/
def regOfName (n : String) : Option SReg :=
  [SReg.X, .XP, .XR, .XPR, .SUM, .SUMP, .M, .MP, .D].find? fun r => regName r == n

/-- `ODD` or `EVEN` (R116). -/
def ordName : Ord → String
  | .odd => "ODD"
  | .even => "EVEN"

/-- The ordering of a name. -/
def ordOfName (n : String) : Option Ord := [Ord.odd, .even].find? fun o => ordName o == n

/-- The decimal rotation amount (R116). -/
def rotName : Rot → String
  | .r7 => "7"
  | .r9 => "9"
  | .r13 => "13"
  | .r18 => "18"

/-- The rotation of a decimal amount. -/
def rotOfName (n : String) : Option Rot := [Rot.r7, .r9, .r13, .r18].find? fun r => rotName r == n

/-- `RND` or `FIX` (R116). -/
def fillName : Fill → String
  | .rnd => "RND"
  | .fix => "FIX"

/-- The fill of a name. -/
def fillOfName (n : String) : Option Fill := [Fill.rnd, .fix].find? fun f => fillName f == n

/-- The number a list of decimal digits writes, after the digits read so far; none at any other character. -/
def decimalFrom : (soFar : Nat) → List Char → Option Nat
  | soFar, [] => some soFar
  | soFar, ch :: rest => if ch.isDigit then decimalFrom (10 * soFar + (ch.toNat - '0'.toNat)) rest else none

/-- A decimal numeral as a round index, 0 to 255 (R108, R116). DESIGN CHOICE (log 32): leading zeros are allowed; R116 says
only "decimal". -/
def indexOfName (n : String) : Option Nat :=
  match n.toList with
  | [] => none
  | digits => (decimalFrom 0 digits).filter (· ≤ 255)

/-- The assembler line of a micro-op (R116). -/
def asmOf : Instr → AsmLine
  | .copy d s => ⟨"COPY", [regName d, regName s]⟩
  | .add z a b => ⟨"ADD", [regName z, regName a, regName b]⟩
  | .sub z a b => ⟨"SUB", [regName z, regName a, regName b]⟩
  | .xor z a b => ⟨"XOR", [regName z, regName a, regName b]⟩
  | .arx s r o => ⟨"ARX", [regName s, rotName r, ordName o]⟩
  | .uarx18 s => ⟨"UARX18", [regName s]⟩
  | .hr1 s o => ⟨"HR1", [regName s, ordName o]⟩
  | .hr2 s o => ⟨"HR2", [regName s, ordName o]⟩
  | .bhr1 s o => ⟨"BHR1", [regName s, ordName o]⟩
  | .bhr2 s o => ⟨"BHR2", [regName s, ordName o]⟩
  | .fround s i => ⟨"FROUND", [regName s, toString i]⟩
  | .bround s i => ⟨"BROUND", [regName s, toString i]⟩
  | .initc s f => ⟨"INITC", [regName s, fillName f]⟩
  | .inskey s => ⟨"INSKEY", [regName s]⟩
  | .inj s => ⟨"INJ", [regName s]⟩
  | .par s .fwd => ⟨"PAR.F", [regName s]⟩
  | .par s .bwd => ⟨"PAR.B", [regName s]⟩
  | .drawk => ⟨"DRAWK", []⟩
  | .tglk => ⟨"TGLK", []⟩
  | .matchUop => ⟨"MATCH", []⟩
  | .endUop => ⟨"END", []⟩

/-- A micro-op with no operand, or one or more, read by mnemonic and number of operands; the pseudo-micro-ops of R117
each stand for exactly one micro-op. -/
def parseAsm (line : AsmLine) : Option Instr :=
  match line.mnemonic, line.operands with
  | "DRAWK", [] => some .drawk
  | "TGLK", [] => some .tglk
  | "MATCH", [] => some .matchUop
  | "END", [] => some .endUop
  | "COPY", [d, s] => return .copy (← regOfName d) (← regOfName s)
  | "ADD", [z, a, b] => return .add (← regOfName z) (← regOfName a) (← regOfName b)
  | "SUB", [z, a, b] => return .sub (← regOfName z) (← regOfName a) (← regOfName b)
  | "XOR", [z, a, b] => return .xor (← regOfName z) (← regOfName a) (← regOfName b)
  | "ARX", [s, r, o] => return .arx (← regOfName s) (← rotOfName r) (← ordOfName o)
  | "UARX18", [s] => return .uarx18 (← regOfName s)
  | "HR1", [s, o] => return .hr1 (← regOfName s) (← ordOfName o)
  | "HR2", [s, o] => return .hr2 (← regOfName s) (← ordOfName o)
  | "BHR1", [s, o] => return .bhr1 (← regOfName s) (← ordOfName o)
  | "BHR2", [s, o] => return .bhr2 (← regOfName s) (← ordOfName o)
  | "FROUND", [s, i] => return .fround (← regOfName s) (← indexOfName i)
  | "BROUND", [s, i] => return .bround (← regOfName s) (← indexOfName i)
  | "INITC", [s, f] => return .initc (← regOfName s) (← fillOfName f)
  | "INSKEY", [s] => return .inskey (← regOfName s)
  | "INJ", [s] => return .inj (← regOfName s)
  | "PAR.F", [s] => return .par (← regOfName s) .fwd
  | "PAR.B", [s] => return .par (← regOfName s) .bwd
  | "ARX_7", [s, o] => return .arx (← regOfName s) .r7 (← ordOfName o)
  | "ARX_9", [s, o] => return .arx (← regOfName s) .r9 (← ordOfName o)
  | "ARX_13", [s, o] => return .arx (← regOfName s) .r13 (← ordOfName o)
  | "ARX_18", [s, o] => return .arx (← regOfName s) .r18 (← ordOfName o)
  | "UEVENARX_18", [s] => return .uarx18 (← regOfName s)
  | "COLROUND", [s] => return .fround (← regOfName s) 1
  | "ROWROUND", [s] => return .fround (← regOfName s) 2
  | _, _ => none

/-- Assemble one line to its word. -/
def assemble (line : AsmLine) : Option Word16 := (parseAsm line).map encode

/-- Split at a character. -/
def splitAt (sep : Char) : List Char → List (List Char)
  | [] => [[]]
  | ch :: rest =>
    match splitAt sep rest with
    | [] => [[ch]]
    | part :: parts => if ch = sep then [] :: part :: parts else (ch :: part) :: parts

/-- The characters with the spaces at the front taken away. -/
def dropSpaces (l : List Char) : List Char := l.dropWhile fun ch => ch == ' '

/-- The characters with the spaces at both ends taken away. -/
def trimSpaces (l : List Char) : List Char := (dropSpaces (dropSpaces l).reverse).reverse

/-- A line of text as a mnemonic and its operands: the comment dropped, the mnemonic up to the first space, the rest
split at commas (R116). DESIGN CHOICE (log 32), R116 being silent on blanks: the space is the only blank; spaces before the
mnemonic and around an operand are dropped, and a space inside an operand is kept, so that it names nothing. -/
def readAsm (text : List Char) : AsmLine :=
  let body := trimSpaces (text.takeWhile fun ch => ch != ';')
  let mnemonic := body.takeWhile fun ch => ch != ' '
  let rest := dropSpaces (body.dropWhile fun ch => ch != ' ')
  ⟨String.ofList mnemonic, if rest = [] then [] else (splitAt ',' rest).map fun part => String.ofList (trimSpaces part)⟩

end Sys2Proof.Machine
end

