-- ==== Sys2Proof/Tests/Slice0.lean ====
section
/-! SUPPORT. The model's own tests. Expected values come from the spec: the examples of each rule and the vectors of
95_test_vectors.md. The last part shows, for every statement with hypotheses, a concrete state and operands that meet
them. -/

namespace Sys2Proof.Tests

open Sys2Proof.Machine

/-! ### A small machine -/

/-- The test state `A` of 41_state_ops.md. -/
def stateA : State16 :=
  #v[0x9E3779B9, 0x3C6EF372, 0xDAA66D2B, 0x78DDE6E4, 0x1715609D, 0xB54CDA56, 0x5384540F, 0xF1BBCDC8,
     0x8FF34781, 0x2E2AC13A, 0xCC623AF3, 0x6A99B4AC, 0x08D12E65, 0xA708A81E, 0x454021D7, 0xE3779B90]

/-- The test state `B` of 41_state_ops.md. -/
def stateB : State16 :=
  #v[0x54760D76, 0xDA61D7E1, 0x604DA24C, 0xE6396CB7, 0x6C253722, 0xF211018D, 0x77FCCBF8, 0xFDE89663,
     0x83D460CE, 0x09C02B39, 0x8FABF5A4, 0x1597C00F, 0x9B838A7A, 0x216F54E5, 0xA75B1F50, 0x2D46E9BB]

def zero16 : State16 := Vector.replicate 16 0

/-- The key of the examples of R145 and R146. -/
def keyK : KeyWords :=
  #v[0x03020100, 0x07060504, 0x0B0A0908, 0x0F0E0D0C, 0x13121110, 0x17161514, 0x1B1A1918, 0x1F1E1D1C]

def demoLane : Lane where
  sr := { x := stateA, xp := stateB, xr := stateB, xpr := zero16, sum := zero16, sump := zero16, m := stateA,
          mp := zero16, d := stateA }
  k := keyK
  fp := false
  bp := false
  mc := 0
  tc := 0
  upc := 0
  lrun := .idle
  lf := none
  rng := (List.range 12).map fun n => .word (BitVec.ofNat 32 (n + 1))
  drawn := 0

/-- Two lanes, idle, the next micro-op from the UOP port. -/
def demo : State where
  lanes := [demoLane, demoLane]
  cfg := CfgRegs.reset 2
  status := StatusReg.clear
  res := ResultRegs.clear
  coord := Coord.reset
  inp := Inputs.reset

def withCfg (f : CfgRegs → CfgRegs) (s : State) : State := { s with cfg := f s.cfg }

def withLane (f : Lane → Lane) (s : State) : State := s.onLane0 f

/-- Lane 0 after the word `u` is written to `UOP`. -/
def laneAfter (u : Word16) (s : State) : Option Lane :=
  match s.writeUop (0#16 ++ u) with
  | .next t => t.lanes.head?
  | .fault _ => none
  | .refused _ => none

def regAfter (u : Word16) (r : SReg) (s : State) : Option State16 := (laneAfter u s).map (·.reg r)

/-- `STATUS` after the word `u` is written to `UOP`. -/
def statusAfter (u : Word16) (s : State) : Option Word :=
  match s.writeUop (0#16 ++ u) with
  | .next t => some t.statusWord
  | .fault _ => none
  | .refused _ => none

/-- 128-bit mode with the given target. -/
def mode128 (target : Word) (s : State) : State := withCfg (fun c => { c with mode := 1, target := target }) s

/-! ### Well-formedness: the one check, and what it refuses -/

theorem test_wellFormed_refuses_fround_256 : (Instr.fround .X 256).wellFormed = false := by decide

theorem test_wellFormed_refuses_bround_256 : (Instr.bround .X 256).wellFormed = false := by decide

theorem test_wellFormed_accepts_255 : (Instr.fround .X 255).wellFormed = true := by decide

/-! ### Decoding, every constructor by a word written out from the encoding of its format -/

theorem test_decode_format_z :
    [decode 0b0000_0000_00000001, decode 0b0000_0000_00000010, decode 0b0000_0000_00000011, decode 0b0000_0000_00000100] =
      [.ok .drawk, .ok .tglk, .ok .matchUop, .ok .endUop] := by decide

theorem test_decode_format_c : decode 0b0001_0010_0000_0000 = .ok (.copy .XR .X) := by decide

theorem test_decode_format_t :
    [decode 0b0010_0100_0000_0010, decode 0b0011_0110_0100_0010, decode 0b0100_1000_0000_0001] =
      [.ok (.add .SUM .X .XR), .ok (.sub .M .SUM .XR), .ok (.xor .D .X .XP)] := by decide

theorem test_decode_format_a :
    [decode 0b0101_0000_10_0_00000, decode 0b0101_0111_01_1_00000] =
      [.ok (.arx .X .r13 .even), .ok (.arx .MP .r9 .odd)] := by decide

theorem test_decode_format_u : decode 0b0110_0110_11000000 = .ok (.uarx18 .M) := by decide

theorem test_decode_format_h :
    [decode 0b0111_0000_0_0_1_00000, decode 0b0111_0001_1_0_1_00000, decode 0b0111_0110_0_1_1_00000,
      decode 0b0111_0111_1_1_0_00000] =
      [.ok (.hr1 .X .odd), .ok (.hr2 .XP .odd), .ok (.bhr1 .M .odd), .ok (.bhr2 .MP .even)] := by decide

theorem test_decode_format_r :
    [decode 0b1000_0001_00000010, decode 0b1001_0110_11111111] = [.ok (.fround .XP 2), .ok (.bround .M 255)] := by decide

theorem test_decode_format_f :
    [decode 0b1010_0000_0_0000000, decode 0b1010_0000_1_0000000, decode 0b1101_1000_1_0000000, decode 0b1101_1000_0_0000000] =
      [.ok (.initc .X .rnd), .ok (.initc .X .fix), .ok (.par .D .bwd), .ok (.par .D .fwd)] := by decide

theorem test_decode_format_s :
    [decode 0b1011_0011_00000000, decode 0b1100_0001_00000000] = [.ok (.inskey .XPR), .ok (.inj .XP)] := by decide

/-- One word for each clause of R112, and the two the rule names. -/
theorem test_decode_illegal :
    [decode 0xE000, decode 0xF000, decode 0x1900, decode 0x2019, decode 0x1201, decode 0x5010, decode 0x60C1, decode 0xD840,
      decode 0x0005, decode 0x0101, decode 0x0000, decode 0xFFFF] =
      [.error .opcode, .error .opcode, .error .registerId, .error .registerId, .error .fixedField, .error .fixedField,
       .error .fixedField, .error .fixedField, .error .funct, .error .fixedField, .error .funct, .error .opcode] := by decide

/-- The assembler reads the text of R116 and R117. -/
theorem test_assembler :
    [assemble (readAsm "ADD SUM, X, XR ; comment".toList), assemble (readAsm "ROWROUND XP".toList),
      assemble (readAsm "UEVENARX_18 M".toList)] = [some 0x2402, some 0x8102, some 0x66C0] := by decide

/-- Log 32: leading zeros of a decimal index, spaces at the ends; a space inside a name, 256, and a sign name nothing. -/
theorem test_assembler_blanks :
    [assemble (readAsm "  FROUND  XP ,  002  ".toList), assemble (readAsm "FROUND X P, 2".toList),
      assemble (readAsm "FROUND XP, 256".toList), assemble (readAsm "FROUND XP, +2".toList), assemble (readAsm "END ".toList),
      assemble (readAsm "; comment".toList)] = [some 0x8102, none, none, none, some 0x0004, none] := by decide

/-! ### Bit primitives (R130 to R132) -/

theorem test_rotl32 : rotl32 0x12345678 7 = 0x1A2B3C09 ∧ rotl32 0x12345678 32 = 0x12345678 := by decide

theorem test_toggleBit : toggleBit 0x00000002 31 = 0x80000002 ∧ getBit 0x00000080 7 = true := by decide

/-! ### Micro-ops, by the examples of their rules -/

theorem test_copy : regAfter 0x1200 .XR demo = some stateA := by decide

theorem test_add : regAfter 0x2402 .SUM demo = some
    #v[0xF2AD872F, 0x16D0CB53, 0x3AF40F77, 0x5F17539B, 0x833A97BF, 0xA75DDBE3, 0xCB812007, 0xEFA4642B,
       0x13C7A84F, 0x37EAEC73, 0x5C0E3097, 0x803174BB, 0xA454B8DF, 0xC877FD03, 0xEC9B4127, 0x10BE854B] := by decide

/-- A source that is also the destination. -/
theorem test_add_aliased : (regAfter 0x2000 .X demo).map (·[0]) = some 0x3C6EF372 := by decide

theorem test_sub : regAfter 0x3602 .M demo = some
    #v[0x49C16C43, 0x620D1B91, 0x7A58CADF, 0x92A47A2D, 0xAAF0297B, 0xC33BD8C9, 0xDB878817, 0xF3D33765,
       0x0C1EE6B3, 0x246A9601, 0x3CB6454F, 0x5501F49D, 0x6D4DA3EB, 0x85995339, 0x9DE50287, 0xB630B1D5] := by decide

theorem test_xor : regAfter 0x4801 .D demo = some
    #v[0xCA4174CF, 0xE60F2493, 0xBAEBCF67, 0x9EE48A53, 0x7B3057BF, 0x475DDBDB, 0x24789FF7, 0x0C535BAB,
       0x0C27274F, 0x27EAEA03, 0x43C9CF57, 0x7F0E74A3, 0x9352A41F, 0x8667FCFB, 0xE21B3E87, 0xCE31722B] := by decide

/-- The words INITC FIX takes from `IVFIX` and those it keeps. -/
theorem test_initc_fix :
    (regAfter 0xA080 .X (withCfg (fun c => { c with ivfix := #v[1, 2, 3, 4] }) demo)).map
      (fun v => [v[1], v[4], v[6], v[7], v[8], v[9], v[11], v[14]]) =
      some [0x3C6EF372, 0x1715609D, 1, 2, 3, 4, 0x6A99B4AC, 0x454021D7] := by decide

theorem test_initc_rnd_draws_in_order :
    (laneAfter 0xA000 demo).map (fun L => ([(L.reg .X)[6], (L.reg .X)[9]], L.drawn)) = some ([1, 4], 4) := by decide

theorem test_inskey : (regAfter 0xB000 .X demo).map (fun v => [v[0], v[1], v[4], v[5], v[11], v[14], v[15]]) =
    some [0x9E3779B9, 0x03020100, 0x0F0E0D0C, 0xB54CDA56, 0x13121110, 0x1F1E1D1C, 0xE3779B90] := by decide

theorem test_drawk_256 : (laneAfter 0x0001 demo).map (fun L => (L.k, L.drawn)) = some (#v[1, 2, 3, 4, 5, 6, 7, 8], 8) := by
  decide

theorem test_drawk_128 :
    (laneAfter 0x0001 (mode128 0 demo)).map (fun L => (L.k, L.drawn)) = some (#v[1, 2, 3, 4, 1, 2, 3, 4], 4) := by decide

/-- The second draw fails: `K` unchanged, two draws consumed, `STATUS.UOPERR` with code 1. -/
theorem test_drawk_fail :
    (laneAfter 0x0001 (withLane (fun L => { L with rng := [.word 1, .fail] }) demo)).map (fun L => (L.k, L.drawn, L.lf)) =
      some (keyK, 2, none) ∧
    statusAfter 0x0001 (withLane (fun L => { L with rng := [.word 1, .fail] }) demo) = some 0x1040 := by decide

theorem test_arx_7_odd : regAfter 0x5020 .X demo = some
    #v[0x9E3779B9, 0x3C6EF372, 0xDAA66D2B, 0x7075F8C3, 0x93416FCE, 0xB54CDA56, 0x5384540F, 0xF1BBCDC8,
       0x8FF34781, 0xF3CC2542, 0xCC623AF3, 0x6A99B4AC, 0x08D12E65, 0xA708A81E, 0xB607A0D8, 0xE3779B90] := by decide

theorem test_arx_18_even : regAfter 0x50C0 .X demo = some
    #v[0xCE0A37A8, 0x3C6EF372, 0xDAA66D2B, 0x78DDE6E4, 0x1715609D, 0x0CD8F912, 0x5384540F, 0xF1BBCDC8,
       0x8FF34781, 0x2E2AC13A, 0xEE8CC28B, 0x6A99B4AC, 0x08D12E65, 0xA708A81E, 0x454021D7, 0xC4A02AB3] := by decide

theorem test_uarx18_noop : regAfter 0x60C0 .X demo = some stateA := by decide

theorem test_hr1_even : regAfter 0x7000 .X demo = some
    #v[0x9E3779B9, 0xB6DEBDF9, 0xF6C90981, 0x78DDE6E4, 0x1715609D, 0xB54CDA56, 0x62992DE9, 0x3DABB3E7,
       0x1C49CE73, 0x2E2AC13A, 0xCC623AF3, 0x2CE7A251, 0x530F9DF1, 0xA97BAA73, 0x454021D7, 0xE3779B90] := by decide

theorem test_hr2_odd : regAfter 0x70A0 .X demo = some
    #v[0x9621CEA0, 0x5145E9D4, 0xDAA66D2B, 0x78DDE6E4, 0x1715609D, 0xF2873B6C, 0x826417F3, 0xF1BBCDC8,
       0x8FF34781, 0x2E2AC13A, 0xD81B4ED9, 0x5C0C39FF, 0x1DD2FA84, 0xA708A81E, 0x454021D7, 0xFC6AACB0] := by decide

theorem test_bhr1_odd : regAfter 0x7060 .X demo = some
    #v[0x49AD1AA8, 0x5145E9D4, 0xDAA66D2B, 0x78DDE6E4, 0x1715609D, 0xDB0F5788, 0x826417F3, 0xF1BBCDC8,
       0x8FF34781, 0x2E2AC13A, 0xC88A8258, 0x5C0C39FF, 0x1DD2FA84, 0xA708A81E, 0x454021D7, 0xEAA6EAC6] := by decide

theorem test_bhr2_even : regAfter 0x70C0 .X demo = some
    #v[0x9E3779B9, 0xB6DEBDF9, 0x967C3A9E, 0x78DDE6E4, 0x1715609D, 0xB54CDA56, 0x62992DE9, 0x53E707D9,
       0x782C79EC, 0x2E2AC13A, 0xCC623AF3, 0x2CE7A251, 0x530F9DF1, 0x369B43C6, 0x454021D7, 0xE3779B90] := by decide

theorem test_fround_1 : regAfter 0x8001 .X demo = some
    #v[0xC68581A4, 0x4BBF222A, 0x0911FA2F, 0x7075F8C3, 0x93416FCE, 0x5897508C, 0x60E4A3EC, 0x2A936B6F,
       0x7E2049E3, 0xF3CC2542, 0xB40F9D29, 0x461FE7CD, 0x3FE70C49, 0x96F7994C, 0xB607A0D8, 0xAF86595D] := by decide

theorem test_fround_even_index : regAfter 0x8000 .X demo = regAfter 0x8002 .X demo := by decide

theorem test_bround_2 : regAfter 0x9002 .X demo = some
    #v[0xCE0A37A8, 0x50532423, 0x28F0593F, 0xD4CE4406, 0x132F8835, 0x0CD8F912, 0x57C4F79F, 0x4B218F08,
       0xC31D2933, 0xB1AF7E6B, 0xEE8CC28B, 0x74B9CFFC, 0x10EE41C7, 0x45BA9984, 0x7F90542C, 0xC4A02AB3] := by decide

/-- `IDM[7] = 0x80000000`: word 7 alone changes. -/
theorem test_inj :
    regAfter 0xC000 .X (withCfg (fun c => { c with idm := zero16.set 7 0x80000000 }) demo) =
      some (stateA.set 7 0x71BBCDC8) := by decide

/-- R191's example: MASK = (4, 7) on `A` gives 1 and writes `FP` alone. -/
theorem test_par_f :
    (laneAfter 0xD000 (withCfg (fun c => { c with omsk := zero16.set 4 0x80 }) demo)).map (fun L => (L.fp, L.bp)) =
      some (true, false) := by decide

/-- R191's second example: two more mask bits make the parity 0. -/
theorem test_par_b :
    (laneAfter 0xD080 (withCfg (fun c => { c with omsk := (zero16.set 4 0x80).set 0 0x3 })
      (withLane (fun L => { L with bp := true, fp := true }) demo))).map (fun L => (L.fp, L.bp)) =
      some (true, false) := by decide

theorem test_tglk_256 :
    (laneAfter 0x0002 (withCfg (fun c => { c with target := 0x65 }) demo)).map (·.k) = some (keyK.set 3 0x0F0E0D2C) := by decide

/-- 128-bit mode: both replicas toggled with `KW = 1`; `BadTarget`, code 3, with `KW = 4`. -/
theorem test_tglk_128 :
    (laneAfter 0x0002 (mode128 0x25 (withLane (fun L => { L with k := L.k.set 5 0x07060504 }) demo))).map
      (fun L => (L.k[1], L.k[5])) = some (0x07060524, 0x07060524) ∧
    statusAfter 0x0002 (mode128 0x80 demo) = some 0x3040 := by decide

theorem test_match_counts : (laneAfter 0x0003 demo).map (·.mc) = some 1 := by decide

theorem test_match_wraps_and_differs :
    (laneAfter 0x0003 (withLane (fun L => { L with mc := 0xFFFFFFFFFFFFFFFF }) demo)).map (·.mc) = some 0 ∧
    (laneAfter 0x0003 (withLane (fun L => { L with mc := 7, bp := true }) demo)).map (·.mc) = some 7 := by decide

/-- On the UOP port END counts the trial and leaves the micro-PC and the run state. -/
theorem test_end_on_uop_port :
    (laneAfter 0x0004 (withLane (fun L => { L with upc := 37 }) demo)).map (fun L => (L.tc, L.upc, L.lrun)) =
      some (1, 37, .idle) := by decide

/-- R194's example: `S = 2`, `TC = 1`, `RUN`, `upc = 37`. -/
theorem test_end_in_the_program :
    ({ demoLane with tc := 1, upc := 37, lrun := .run }.endTrial 2 (.program 0)) =
      { demoLane with tc := 2, upc := 0, lrun := .done } := by decide

theorem test_illegal_word : statusAfter 0x0000 demo = some 0x2040 ∧ laneAfter 0x0000 demo = some demoLane := by decide

/-! ### Coordinator and host port -/

/-- R248's examples. -/
theorem test_bias :
    [biasOf 1 4, biasOf 3 4, biasOf 1 3, biasOf 2 3, biasOf 5 6, biasOf 177000 786432, biasOf 1 (2 ^ 48)] =
      [0xBFE0000000000000, 0x3FE0000000000000, 0xBFD5555555555556, 0x3FD5555555555554, 0x3FE5555555555556,
       0xBFE1988000000000, 0xBFEFFFFFFFFFFFC0] := by decide +kernel

/-- R249's examples with `THREFF = 0.35`, and −0.5 with 0.75. -/
theorem test_classify :
    [isPnb 0xBFE0000000000000 defaultThreshold, isPnb 0 defaultThreshold, isPnb 0xBFD5555555555556 defaultThreshold,
      isPnb 0xBFF0000000000000 defaultThreshold, isPnb 0xBFE0000000000000 0x3FE8000000000000] =
      [true, false, false, true, false] := by decide

/-- R243: infinities and NaNs are out of range, `−0.0` and `1.0` in it. -/
theorem test_threshold_range :
    [thresholdOutOfRange 0x7FF0000000000000, thresholdOutOfRange 0xFFF0000000000000, thresholdOutOfRange 0x7FF8000000000000,
      thresholdOutOfRange 0x3FF8000000000000, thresholdOutOfRange 0x8000000000000000, thresholdOutOfRange 0x3FF0000000000000] =
      [true, true, true, true, false, false] := by decide

/-- R242: the first check that fails decides the code. -/
theorem test_start_checks :
    [startRefusal { CfgRegs.reset 2 with rounds := 0x0100, nw := 0 } 2, startRefusal { CfgRegs.reset 2 with nw := 3 } 2,
      startRefusal { CfgRegs.reset 2 with trials := 0x10000000001 } 2, startRefusal (CfgRegs.reset 2) 2] =
      [some .rounds, some .workers, some .trials, none] := by decide

/-- R213's first two examples. -/
theorem test_program_length :
    (trialWords { CfgRegs.reset 2 with rounds := 0x0204 }).length = 44 ∧
    (trialWords { CfgRegs.reset 2 with rounds := 0x0587 }).length = 54 := by decide

/-- R283's runs and R285's map on one key word: bits 0 to 3 and 31 are PNBs, bit 5 is not. -/
theorem test_segments : segments 0x8000000F = [(31, 31), (3, 0)] ∧ (psMap 0x8000000F 0x20).take 2 = ['p', '.'] ∧
    (psMap 0x8000000F 0x20).drop 26 = ['s', '.', 'p', 'p', 'p', 'p'] := by decide

/-- R284's examples and stated values: `±0`, `±1`, `±0.5`, `±0.25`. -/
theorem test_negLog2_stated_values :
    [negLog2 0x0000000000000000, negLog2 0x3FF0000000000000, negLog2 0xBFF0000000000000, negLog2 0x3FE0000000000000,
      negLog2 0xBFE0000000000000, negLog2 0x3FD0000000000000, negLog2 0xBFD0000000000000] =
      [0x7FF0000000000000, 0, 0, 0x3FF0000000000000, 0x3FF0000000000000, 0x4000000000000000, 0x4000000000000000] := by
  decide +kernel

/-- R284's `−1/3` "about 1.584962500721156": the binary64 number nearest to that decimal, 0x3FF95C01A39FBD68, or its lower
neighbour. -/
theorem test_negLog2_third :
    F64.negLog2Floor 0x3FD5555555555556 = 0x3FF95C01A39FBD67 ∧ F64.negLog2Ceil 0x3FD5555555555556 = 0x3FF95C01A39FBD68 := by
  decide +kernel

/-- R286: four groups of 32 in 128-bit mode; R284: a value for index 3 alone when it alone has a result, of bias 1. -/
theorem test_report_per_bit :
    (biasTable { CfgRegs.reset 2 with mode := 1 } ResultRegs.clear).map List.length = [32, 32, 32, 32] ∧
    negLog2List (CfgRegs.reset 2) (ResultRegs.clear.commit 3 8 F64.one defaultThreshold) = [⟨3, 0⟩] := by decide +kernel

/-! ### Witnesses: concrete states and operands that meet the hypotheses of the statements -/

/-- The same machine with a micro-op issued from the trial program of lane 1. -/
def demoProgram : State := demo.issuedFrom (.program 1)

/-- Two running lanes at the start of the list, a batch in work, one round with no tail. -/
def demoBatch : State :=
  { demo with
    lanes := [{ demoLane with lrun := .run }, { demoLane with lrun := .run }]
    cfg := { demo.cfg with mode := 0, nw := 2, trials := 2 }
    coord := { demo.coord with cst := .wait } }

/-- The host's turn, with the given accesses pending. -/
def hostTurn (q : List HostAccess) (s : State) : State := { s with inp := { s.inp with sched := [.host], hostq := q } }

def turnOf (a : Agent) (s : State) : State := { s with inp := { s.inp with sched := [a] } }

def inState (c : CState) (s : State) : State := { s with coord := { s.coord with cst := c } }

theorem issued_demo : IssuedOn demo demoLane := rfl

theorem issued_demoProgram : IssuedOn demoProgram demoLane := rfl

/-- CopyCompletes, AddSubXorComplete, InskeyCompletes, ArxCompletes, HalfRoundsAndRoundsComplete, InjCompletes,
ParCompletes, MatchCompletes, EndCompletes, MicroOpsCompleteOrTakeTheirFault: a lane is there, on the UOP port and in the
program; END's last clause has a running lane. -/
theorem witness_issuing_lane :
    IssuedOn demo demoLane ∧ demo.inp.issue = .uopPort ∧ IssuedOn demoProgram demoLane ∧ demoProgram.inp.issue ≠ .uopPort ∧
    IssuedOn (demoBatch.issuedFrom (.program 1)) { demoLane with lrun := .run } := ⟨rfl, rfl, rfl, by decide, rfl⟩

theorem witness_DecoderFollowsOpcodeMapAndEncoderInverts :
    decode 0x2402 = .ok (.add .SUM .X .XR) ∧ decode 0x0000 = .error .funct ∧ (Instr.fround .D 255).wellFormed = true := by
  decide

theorem witness_OpcodeRowsNeverOverlap :
    opcodeMap[5] ∈ opcodeMap ∧ 0x2402#16 &&& opcodeMap[5].mask = opcodeMap[5].matchBits := by decide

theorem witness_IllegalWordsRaiseIllegalUop :
    illegalByR112 0xFFFF = true ∧ IssuedOn demo demoLane ∧ 0xA000 ∈ trialWords demo.cfg := by
  refine ⟨by decide, rfl, by decide⟩

/-- The two ends of each range: a rotation by 0 and by 32 (both 0 modulo 32), by 31, bits 0 and 31. -/
theorem witness_BitPrimitives : 32 % 32 = 0 ∧ 31 % 32 ≠ 0 ∧ (31 : Nat) < 32 ∧ (0 : Nat) < 32 ∧ (0 : Nat) ≠ 31 ∧ (32 : Nat) ≤ 32 := by
  decide

theorem witness_StateArithmeticLaws :
    (∀ i : Fin 16, zero16[i].toNat = (2 ^ 32 - zero16[i].toNat) % 2 ^ 32) ∧ stateA[0] = stateA[0] := by decide

theorem witness_InitcCompletes :
    IssuedOn demo demoLane ∧ demoLane.answersWords demo.inp.issue.lane (#v[1, 2, 3, 4] : Vector Word 4) :=
  ⟨rfl, fun j => by fin_cases j <;> rfl⟩

theorem witness_DrawkCompletes :
    IssuedOn demo demoLane ∧ getBit demo.cfg.mode 0 = false ∧
    demoLane.answersWords demo.inp.issue.lane (#v[1, 2, 3, 4, 5, 6, 7, 8] : Vector Word 8) ∧
    IssuedOn (mode128 0 demo) demoLane ∧ getBit (mode128 0 demo).cfg.mode 0 = true ∧
    demoLane.answersWords (mode128 0 demo).inp.issue.lane (#v[1, 2, 3, 4] : Vector Word 4) :=
  ⟨rfl, by decide, fun j => by fin_cases j <;> rfl, rfl, by decide, fun j => by fin_cases j <;> rfl⟩

/-- A lane whose draws fail at draw `n`. -/
def failingAt (n : Nat) : Lane :=
  { demoLane with rng := ((List.range n).map fun j => Draw.word (BitVec.ofNat 32 j)) ++ [.fail] }

/-- The first and the last draw that can fail: 0 and 3 of INITC, 7 of DRAWK in 256-bit mode. -/
theorem witness_FailedDrawTakesRngFail :
    (Instr.initc .X .rnd).draws = true ∧ (failingAt 0).answersWords 0 (#v[] : Vector Word 0) ∧
    (failingAt 0).answer 0 0 = .fail ∧ (failingAt 3).answersWords 0 (#v[0, 1, 2] : Vector Word 3) ∧
    (failingAt 3).answer 0 3 = .fail ∧ Instr.drawk.draws = true ∧ getBit demo.cfg.mode 0 = false ∧
    (failingAt 7).answersWords 0 (#v[0, 1, 2, 3, 4, 5, 6] : Vector Word 7) ∧ (failingAt 7).answer 0 7 = .fail ∧
    IssuedOn (withLane (fun _ => failingAt 7) demo) (failingAt 7) :=
  ⟨rfl, fun j => j.elim0, rfl, fun j => by fin_cases j <;> rfl, rfl, rfl, by decide, fun j => by fin_cases j <;> rfl, rfl, rfl⟩

theorem witness_UarxCompletes :
    getBit demo.cfg.mode 2 = false ∧ IssuedOn (withCfg (fun c => { c with mode := 4 }) demo) demoLane ∧
    getBit (withCfg (fun c => { c with mode := 4 }) demo).cfg.mode 2 = true := ⟨by decide, rfl, by decide⟩

theorem witness_quartets : (⟨15, 12, 13, 14⟩ : Quartet) ∈ quartets .even ∧ (⟨0, 4, 8, 12⟩ : Quartet) ∈ quartets .odd := by decide

/-- 256-bit mode with `KW = 7`; 128-bit mode with `KW = 3` (toggles) and with `KW = 4` (faults). -/
theorem witness_TglkCompletesOrBadTarget :
    (withCfg (fun c => { c with target := 0xE0 }) demo).cfg.target.toNat / 32 % 8 = 7 ∧
    getBit (mode128 0x60 demo).cfg.mode 0 = true ∧ ¬ 4 ≤ (mode128 0x60 demo).cfg.target.toNat / 32 % 8 ∧
    4 ≤ (mode128 0x80 demo).cfg.target.toNat / 32 % 8 ∧ IssuedOn (mode128 0x80 demo) demoLane :=
  ⟨by decide, by decide, by decide, by decide, rfl⟩

theorem witness_SamplerLaws :
    (∃ t u, exec (.inj .X) demo = .next t ∧ exec (.inj .X) t = .next u) ∧
    badTarget demo.cfg = false ∧ (∃ t u, exec .tglk demo = .next t ∧ exec .tglk t = .next u) ∧
    (∀ w : Fin 16, demo.cfg.idm[w] = 0) ∧ (∀ w : Fin 16, demo.cfg.omsk[w] = 0) ∧
    (∃ t u v, exec (.par .D .fwd) demo = .next t ∧ exec (.par .D .bwd) t = .next u ∧ exec .matchUop u = .next v) :=
  ⟨⟨_, _, rfl, rfl⟩, by decide, ⟨_, _, rfl, rfl⟩, by decide, by decide, ⟨_, _, _, rfl, rfl, rfl⟩⟩

/-- The clauses of SamplerLaws on `MC` and `TC`: a dispatched lane, a micro-op other than MATCH, MATCH and END. -/
theorem witness_SamplerLaws_counters :
    0 < demo.cfg.workers ∧ (∃ L, demo.dispatchBatch.lanes[0]? = some L) ∧ demoLane.mc.toNat ≤ demoLane.tc.toNat ∧
    demoLane.tc.toNat + 1 < 2 ^ 64 ∧ (∃ t L', exec .endUop demo = .next t ∧ IssuedOn t L') ∧
    (∃ t u L', exec .matchUop demo = .next t ∧ exec .endUop t = .next u ∧ IssuedOn u L') :=
  ⟨by decide, ⟨_, rfl⟩, by decide, by decide, ⟨_, _, rfl, rfl⟩, ⟨_, _, _, rfl, rfl, rfl⟩⟩

/-- R193, R194: between MATCH and END `MC` is above `TC` (log 31): at dispatch both are 0, and MATCH counts at once. -/
theorem test_match_counts_before_end :
    (demoLane.countMatch.mc, demoLane.countMatch.tc) = (1, 0) ∧
    ((demoLane.countMatch.endTrial 2 .uopPort).mc, (demoLane.countMatch.endTrial 2 .uopPort).tc) = (1, 1) := by decide

/-- OnlyNamedMicroOpsWriteEachField and MicroPcRule: a micro-op from each place, and END on a running lane. -/
theorem witness_micro_op_ran :
    (∃ t L', exec (.copy .D .X) demo = .next t ∧ t.lanes[demo.inp.issue.lane]? = some L') ∧
    (∃ t L', exec (.copy .D .X) demoProgram = .next t ∧ t.lanes[demoProgram.inp.issue.lane]? = some L') ∧
    (∃ t L', exec .endUop (demoBatch.issuedFrom (.program 1)) = .next t ∧ t.lanes[1]? = some L') :=
  ⟨⟨_, _, rfl, rfl⟩, ⟨_, _, rfl, rfl⟩, ⟨_, _, rfl, rfl⟩⟩

/-- Bits 31:16 of the written word are not 0. -/
theorem witness_UopWriteRunsItsMicroOp :
    (hostTurn [.reg (.write 0x00B 0xDEAD2402)] demo).nextAgent = .host ∧
    (hostTurn [.reg (.write 0x00B 0xDEAD2402)] demo).inp.hostq = [.reg (.write 0x00B 0xDEAD2402)] ∧
    (hostTurn [.reg (.write 0x00B 0xDEAD2402)] demo).coord.cst = .idle ∧
    decode ((0xDEAD2402 : Word).extractLsb' 0 16) = .ok (.add .SUM .X .XR) := ⟨rfl, rfl, rfl, by decide⟩

theorem witness_UopWriteDroppedWhileBusy :
    (hostTurn [.reg (.write 0x00B 0x2402)] demoBatch).nextAgent = .host ∧
    (hostTurn [.reg (.write 0x00B 0x2402)] demoBatch).inp.hostq = [.reg (.write 0x00B 0x2402)] ∧
    (hostTurn [.reg (.write 0x00B 0x2402)] demoBatch).coord.cst ≠ .idle := ⟨rfl, rfl, by decide⟩

/-- UopWriteRunsItsMicroOp, the clauses of an illegal word and of any write (here START's). -/
theorem witness_UopWriteIllegal_and_any_write :
    (hostTurn [.reg (.write 0x00B 0xE000)] demo).nextAgent = .host ∧
    (hostTurn [.reg (.write 0x00B 0xE000)] demo).inp.hostq = [.reg (.write 0x00B 0xE000)] ∧
    (hostTurn [.reg (.write 0x00B 0xE000)] demo).coord.cst = .idle ∧ (hostTurn [] demo).lanes ≠ [] ∧
    decode ((0xE000 : Word).extractLsb' 0 16) = .error .opcode ∧
    (hostTurn [.reg (.write 0x000 1)] demo).nextAgent = .host ∧
    (hostTurn [.reg (.write 0x000 1)] demo).inp.hostq = [.reg (.write 0x000 1)] :=
  ⟨rfl, rfl, rfl, by simp [hostTurn, demo], by decide, rfl, rfl⟩

theorem witness_LaneStepRunsTheProgramWord :
    (turnOf (.lane 1) demoBatch).nextAgent = .lane 1 ∧
    (turnOf (.lane 1) demoBatch).lanes[1]? = some { demoLane with lrun := .run } ∧
    2 * demoBatch.cfg.fint + demoBatch.cfg.ffrac.toNat ≤ 2 * demoBatch.cfg.rint + demoBatch.cfg.rfrac.toNat ∧
    (trialProgram demoBatch.cfg)[demoLane.upc.toNat]? = some (.initc .X .rnd) := ⟨rfl, rfl, by decide, by decide⟩

/-- R72, R341: the first step after reset runs a word placed at the UOP port (END, 0x0004: `TC` of lane 0 becomes 1). -/
theorem test_placed_word_runs_from_reset :
    ∃ t L, step (State.reset.withFetchWord 16 0x0004) = .next t ∧ t.lanes.head? = some L ∧ L.tc = 1 :=
  ⟨_, _, rfl, rfl, by decide⟩

theorem witness_PlacedWordIsRunNext : decodeTableWord 16 0x2402 = some (.add .SUM .X .XR) := by decide

theorem witness_IdleAgentsTakeNoStep :
    ((turnOf (.lane 1) demo).nextAgent = .lane 1 ∧ (turnOf (.lane 1) demo).lanes[1]? = some demoLane ∧ demoLane.lrun ≠ .run) ∧
    ((turnOf .coordinator demo).nextAgent = .coordinator ∧ (turnOf .coordinator demo).coord.cst = .idle) ∧
    ((turnOf .coordinator demoBatch).nextAgent = .coordinator ∧ (turnOf .coordinator demoBatch).coord.cst = .wait ∧
      1 < demoBatch.cfg.workers ∧ demoBatch.lanes[1]? = some { demoLane with lrun := .run }) ∧
    ((turnOf (.lane 2) demo).nextAgent = .lane 2 ∧ (turnOf (.lane 2) demo).lanes[2]? = none) :=
  ⟨⟨rfl, rfl, by decide⟩, ⟨rfl, rfl⟩, ⟨rfl, rfl, by decide, rfl⟩, ⟨rfl, rfl⟩⟩

theorem witness_TrialProgramLength :
    (CfgRegs.reset 2).roundsLegal = true ∧ { CfgRegs.reset 2 with rounds := 0x80FF }.roundsLegal = true ∧
    { CfgRegs.reset 2 with rounds := 0x80FF }.mode = 0x2 := by decide

theorem witness_TrialProgramEndsOnceAndIsLegal :
    (trialProgram (CfgRegs.reset 2))[31]? = some .endUop ∧
    { CfgRegs.reset 2 with nw := 2 }.rint = (CfgRegs.reset 2).rint := by decide

/-- The 20 turns of lane 1 that run the shortest list once. -/
def demoTrial : State := { demoBatch with inp := { demoBatch.inp with sched := List.replicate 20 (.lane 1) ++ [.host] } }

theorem witness_TrialProgramComputesTheTrial :
    demoTrial.lanes[1]? = some { demoLane with lrun := .run } ∧ demoTrial.cfg.roundsLegal = true ∧
    badTarget demoTrial.cfg = false ∧
    demoTrial.inp.sched = List.replicate (trialLength demoTrial.cfg) (.lane 1) ++ [.host] ∧
    (∀ j : Fin 4, demoLane.answer 1 j = .word (#v[1, 2, 3, 4] : Vector Word 4)[j]) ∧
    (∀ j : Fin 8, demoLane.answer 1 (4 + j) = .word (#v[5, 6, 7, 8, 9, 10, 11, 12] : KeyWords)[j]) ∧
    demoTrial.cfg.key128 = false :=
  ⟨rfl, by decide, by decide, rfl, fun j => by fin_cases j <;> rfl, fun j => by fin_cases j <;> rfl, by decide⟩

/-- The same list in 128-bit mode, where the trial draws 8 words and the key is replicated. -/
def demoTrial128 : State := withCfg (fun c => { c with mode := 1 }) demoTrial

theorem witness_TrialProgramComputesTheTrial_128 :
    demoTrial128.lanes[1]? = some { demoLane with lrun := .run } ∧ demoTrial128.cfg.roundsLegal = true ∧
    badTarget demoTrial128.cfg = false ∧ demoTrial128.cfg.key128 = true ∧
    demoTrial128.inp.sched = List.replicate (trialLength demoTrial128.cfg) (.lane 1) ++ [.host] ∧
    (∀ j : Fin 4, demoLane.answer 1 j = .word (#v[1, 2, 3, 4] : Vector Word 4)[j]) ∧
    (∀ j : Fin 8, j.val < demoTrial128.cfg.keyWordCount →
      demoLane.answer 1 (4 + j) = .word (#v[5, 6, 7, 8, 5, 6, 7, 8] : KeyWords)[j]) ∧
    (∀ j : Fin 4, (#v[5, 6, 7, 8, 5, 6, 7, 8] : KeyWords)[j.val + 4] = (#v[5, 6, 7, 8, 5, 6, 7, 8] : KeyWords)[j.val]) := by
  refine ⟨rfl, by decide, by decide, by decide, rfl, fun j => by fin_cases j <;> rfl, fun j hj => ?_, by decide⟩
  have h4 : demoTrial128.cfg.keyWordCount = 4 := by decide
  rw [h4] at hj
  match j, hj with
  | 0, _ | 1, _ | 2, _ | 3, _ => rfl

theorem witness_ZeroDifferenceAlwaysMatches : ∀ w : Fin 16, (CfgRegs.reset 2).idm[w] = 0 := by decide

/-- 256-bit mode with `KW = 7`, and 128-bit mode with `KW = 3` and a replicated key. -/
theorem witness_KeyFlipAlgebra :
    badTarget { CfgRegs.reset 2 with target := 0xE0 } = false ∧ insertKey (insertKey stateA keyK) keyK = insertKey stateA keyK ∧
    badTarget { CfgRegs.reset 2 with mode := 1, target := 0x60 } = false ∧
    ∀ j : Fin 4, (#v[1, 2, 3, 4, 1, 2, 3, 4] : KeyWords)[j.val + 4] = (#v[1, 2, 3, 4, 1, 2, 3, 4] : KeyWords)[j.val] := by
  decide

theorem witness_ReadsChangeNothing :
    (hostTurn [.reg (.read 0x001)] demo).nextAgent = .host ∧
    (hostTurn [.reg (.read 0x001)] demo).inp.hostq = [.reg (.read 0x001)] := ⟨rfl, rfl⟩

/-- ConfigWritesReadBackMasked, ConfigLockWhileBusy: idle and busy, the ends of the configuration addresses. -/
theorem witness_config_access :
    demo.coord.cst = .idle ∧ (inState .scan demo).coord.cst ≠ .idle ∧
    [0x002, 0x003, 0x004, 0x005, 0x008, 0x00A, 0x010, 0x037, 0x050, 0x053].map configMask =
      [some 0x7, some 0xFFFF, some 0x1FF, some 0xFFFFFFFF, some 0xFFFFFFFF, some 0xFF, some 0xFFFFFFFF, some 0xFFFFFFFF,
       some 0xFFFFFFFF, some 0xFFFFFFFF] ∧
    [0x000, 0x001, 0x009, 0x00B, 0x00C, 0x00F, 0x038, 0x04F, 0x054].map configMask = List.replicate 9 none := by decide

theorem witness_ReservedReadsZeroAndNothingFaults :
    [0x00D, 0x00F, 0x054, 0x0FF, 0x19E, 0x1FF, 0x600, 0x7FF].map reservedAddress = List.replicate 8 true ∧
    [0x00C, 0x010, 0x053, 0x100, 0x19D, 0x200, 0x5FF].map reservedAddress = List.replicate 7 false ∧
    [0x001, 0x009, 0x00C, 0x038, 0x04F, 0x19D, 0x200, 0x5FF].map readOnlyAddress = List.replicate 8 true ∧
    [0x000, 0x002, 0x00B, 0x037, 0x050, 0x19C, 0x19E, 0x600].map readOnlyAddress = List.replicate 8 false ∧
    demo.lanes ≠ [] := by
  refine ⟨by decide, by decide, by decide, by decide, by simp [demo]⟩

/-- The four clauses: busy; START, with CLR beside it; CLR alone; neither. -/
theorem witness_CtrlWrites :
    (inState .prog demo).coord.cst ≠ .idle ∧ demo.coord.cst = .idle ∧ getBit 3 0 = true ∧ getBit 2 0 = false ∧
    getBit 2 1 = true ∧ getBit 4 0 = false ∧ getBit 4 1 = false := by decide

theorem witness_WindowWritesReadBack :
    demo.lanes ≠ [] ∧ demo.coord.cst = .idle ∧ (inState .wait demo).coord.cst ≠ .idle ∧
    [0x100, 0x18F, 0x190, 0x197, 0x198, 0x199, 0x19C].map windowMask =
      [some 0xFFFFFFFF, some 0xFFFFFFFF, some 0xFFFFFFFF, some 0xFFFFFFFF, some 0x3, some 0xFFFFFFFF, some 0xFFFFFFFF] ∧
    [0x0FF, 0x19D].map windowMask = [none, none] := by
  refine ⟨by simp [demo], rfl, by decide, by decide, by decide⟩

/-- One configuration for each of the four clauses, the bounds themselves among the legal ones. -/
theorem witness_StartRefusals :
    demo.coord.cst = .idle ∧ getBit 1 0 = true ∧
    2 * { CfgRegs.reset 2 with rounds := 0x8000 }.rint + 0 < 2 * 0 + { CfgRegs.reset 2 with rounds := 0x8000 }.ffrac.toNat ∧
    { CfgRegs.reset 2 with nw := 0 }.workers = 0 ∧ 2 < { CfgRegs.reset 2 with nw := 3 }.workers ∧
    { CfgRegs.reset 2 with trials := 0 }.trials.toNat = 0 ∧ 2 ^ 40 < { CfgRegs.reset 2 with trials := 0x10000000001 }.trials.toNat ∧
    startRefusal { CfgRegs.reset 2 with nw := 2, trials := 0x10000000000, rounds := 0x0101 } 2 = none := by decide

/-- A legal configuration; patterns on both sides of each bound of the threshold. -/
theorem witness_AcceptedStart :
    demo.coord.cst = .idle ∧ startRefusal demo.cfg demo.lanes.length = none ∧
    (0x3FF0000000000000 : Word64).toNat ≤ 0x3FF0000000000000 ∧ ¬ (0x3FF0000000000001 : Word64).toNat ≤ 0x3FF0000000000000 ∧
    ¬ (0x8000000000000001 : Word64).toNat ≤ 0x3FF0000000000000 := by decide

/-- The three clauses: past the last key bit of each mode, a skipped index, an index to dispatch. -/
theorem witness_ScanStep :
    (inState .scan demo).coord.cst = .scan ∧ (256 : BitVec 9).toNat = 256 ∧ (128 : BitVec 9).toNat = 128 ∧
    mapBit (mapSet (Vector.replicate 8 0) 255) 255 = true ∧ mapBit demo.cfg.skip 255 = false := by decide

/-- A batch that is done, one lane of it faulted, on an index without and with a result. -/
def demoJoin : State :=
  { demoBatch with lanes := [{ demoLane with lrun := .done, mc := 2, tc := 2 }, { demoLane with lrun := .fault, mc := 1, tc := 1 }] }

theorem witness_JoinCommitsOnce :
    demoJoin.coord.cst = .wait ∧ (∀ L ∈ demoJoin.lanes.take demoJoin.cfg.workers, L.lrun = .done ∨ L.lrun = .fault) ∧
    1 ≤ demoJoin.cfg.workers * demoJoin.cfg.trials.toNat ∧ demoJoin.coord.cidx.toNat < 256 ∧
    mapBit demoJoin.res.donemap 0 = false ∧ mapBit (mapSet demoJoin.res.donemap 0) 0 = true := by
  refine ⟨rfl, ?_, by decide, by decide, by decide, by decide⟩
  have h : demoJoin.lanes.take demoJoin.cfg.workers = demoJoin.lanes := rfl
  rw [h]
  simp [demoJoin]

theorem witness_ProgressStep : (inState .prog demo).coord.cst = .prog := rfl

theorem witness_BiasAtTheEnds : (1 : Nat) ≤ 1 ∧ (1 : Nat) ≤ 2 ^ 48 ∧ 2 * 2 ^ 47 ≤ 2 ^ 48 ∧ 2 ^ 53 - 1 < 2 ^ 53 := by decide

theorem witness_ClassificationIsMonotone :
    F64.le 0 F64.one = true ∧ isPnb F64.one F64.one = true ∧ F64.isNaN F64.one = false ∧
    F64.le (F64.abs F64.one) F64.one = true := by decide

theorem demo_resetValues : ResetValues demo where
  mode := rfl
  rounds := rfl
  nw := by decide
  trials := by decide
  thr := rfl
  maps := by decide
  ivfix := by decide
  target := rfl
  status := by decide
  progress := ⟨rfl, rfl⟩
  results := fun idx => by simp [demo, ResultRegs.clear]
  bitmaps := by decide
  coord := ⟨rfl, rfl, rfl⟩
  lanes := fun L hL => by
    simp [demo] at hL
    subst hL
    exact ⟨rfl, rfl, rfl, rfl, rfl⟩

theorem witness_ResetGivesTheListedValues :
    (turnOf .reset demo).nextAgent = .reset ∧ 1 ≤ demo.lanes.length ∧ demo.lanes.length ≤ 256 ∧
    ResetValues (turnOf .coordinator demo) ∧ (turnOf .coordinator demo).nextAgent = .coordinator ∧
    ResetValues (turnOf (.lane 1) demo) ∧ (turnOf (.lane 1) demo).nextAgent = .lane 1 := by
  have h := demo_resetValues
  exact ⟨rfl, by decide, by decide,
    ⟨h.mode, h.rounds, h.nw, h.trials, h.thr, h.maps, h.ivfix, h.target, h.status, h.progress, h.results, h.bitmaps, h.coord, h.lanes⟩,
    rfl,
    ⟨h.mode, h.rounds, h.nw, h.trials, h.thr, h.maps, h.ivfix, h.target, h.status, h.progress, h.results, h.bitmaps, h.coord, h.lanes⟩,
    rfl⟩

/-- Every index skipped, and the scan past the last one: a run about to complete. -/
def demoSkipAll : State :=
  { demo with
    cfg := { demo.cfg with skip := Vector.replicate 8 0xFFFFFFFF }
    coord := { demo.coord with cst := .scan, cidx := 256 } }

theorem mapBit_ones (idx : Nat) : mapBit (Vector.replicate 8 0xFFFFFFFF#32) idx = decide (idx < 256) := by
  by_cases h : idx < 256
  · have h8 : idx / 32 < 8 := by omega
    have hb : idx % 32 < 32 := Nat.mod_lt _ (by omega)
    have hone : ∀ b : Fin 32, (0xFFFFFFFF#32).getLsbD b = true := by decide
    simpa [mapBit, h, h8, getBit] using hone ⟨idx % 32, hb⟩
  · have h8 : ¬ idx / 32 < 8 := by omega
    simp [mapBit, h, h8]

theorem demoSkipAll_inv : Inv demoSkipAll where
  lanes := by decide
  reserved := by decide
  classified := fun idx => by simp [demoSkipAll, demo, ResultRegs.clear]
  untouched := fun idx => by simp [demoSkipAll, demo, ResultRegs.clear]
  codes := by decide
  errors := by decide
  neverFatal := rfl
  threshold := by decide
  idle := fun h => absurd h (by decide)
  run := fun _ => {
    legal := by decide
    running := ⟨rfl, rfl, rfl⟩
    cidx := by decide
    inWork := fun h => absurd rfl h
    donemap := fun idx => by
      simp [demoSkipAll, demo, ResultRegs.clear, State.completedBelow, mapBit_ones]
    progress := by
      have h : ∀ n, n ≤ 256 → demoSkipAll.cfg.unskippedBelow n = 0 := fun n hn => by
        simp only [CfgRegs.unskippedBelow, List.countP_eq_zero, List.mem_range]
        intro idx hi
        simp [demoSkipAll, mapBit_ones]
        omega
      exact (h 256 (Nat.le_refl _)).symm
    results := fun idx h => by simp [demoSkipAll, demo, ResultRegs.clear] at h
    quiet := fun _ L hL => by
      simp [demoSkipAll, demo] at hL
      subst hL
      rfl
    target := fun h => absurd h (by decide)
    batch := fun h => absurd h (by decide) }

/-- InvariantKeptByEveryStep, NoFaultUnderTheInvariant, CompletionIsExact: a state of the invariant in which a run is about
to complete, and the step it takes. -/
theorem witness_invariant :
    Inv demoSkipAll ∧ demoSkipAll.coord.cst = .scan ∧ demoSkipAll.coord.cidx.toNat = demoSkipAll.cfg.keyBitCount ∧
    (∃ t, coordinatorStep demoSkipAll = .next t ∧ t.status.done = true) := by
  refine ⟨demoSkipAll_inv, rfl, by decide, _, rfl, by decide⟩

theorem witness_InvariantKeptByEveryStep :
    Inv (turnOf .coordinator demoSkipAll) ∧ ∃ t, step (turnOf .coordinator demoSkipAll) = .next t := by
  have h := demoSkipAll_inv
  refine ⟨⟨h.lanes, h.reserved, h.classified, h.untouched, h.codes, h.errors, h.neverFatal, h.threshold, h.idle, fun hb => ?_⟩,
    _, rfl⟩
  have r := h.run hb
  exact ⟨r.legal, r.running, r.cidx, r.inWork, r.donemap, r.progress, r.results, r.quiet, r.target, r.batch⟩

theorem witness_LaneStepsCommute :
    (0 : Nat) ≠ 1 ∧ ∃ a b, laneStep 0 demoBatch = .next a ∧ laneStep 1 a = .next b := by
  refine ⟨by decide, _, _, rfl, rfl⟩

/-- Lane 0 there, idle and busy. -/
theorem witness_RegisterReadsShowTheirState :
    demo.lanes[0]? = some demoLane ∧ demo.coord.cst = .idle ∧
    demoBatch.lanes[0]? = some { demoLane with lrun := .run } ∧ demoBatch.coord.cst ≠ .idle := ⟨rfl, rfl, rfl, by decide⟩

/-- A state of the invariant with a batch in work. -/
theorem demoBatch_inv : Inv demoBatch where
  lanes := by decide
  reserved := by decide
  classified := fun idx => by simp [demoBatch, demo, ResultRegs.clear]
  untouched := fun idx => by simp [demoBatch, demo, ResultRegs.clear]
  codes := by decide
  errors := by decide
  neverFatal := rfl
  threshold := by decide
  idle := fun h => absurd h (by decide)
  run := fun _ => {
    legal := by decide
    running := ⟨rfl, rfl, rfl⟩
    cidx := by decide
    inWork := fun _ => by decide
    donemap := fun idx => by simp [demoBatch, demo, ResultRegs.clear, Coord.reset, State.completedBelow]
    progress := rfl
    results := fun idx h => by simp [demoBatch, demo, ResultRegs.clear] at h
    quiet := fun h => absurd rfl h
    target := fun _ => by decide
    batch := fun _ l L hL => by
      match l, hL with
      | 0, rfl | 1, rfl =>
        rw [if_pos (by decide)]
        constructor <;> decide
      | _ + 2, hL => simp [demoBatch] at hL }

/-- The same batch with two other lanes. -/
def batchOf (a b : Lane) : State := { demoBatch with lanes := [a, b] }

theorem batchOf_inv {a b : Lane} (ha : BatchLane demoBatch.cfg a) (hb : BatchLane demoBatch.cfg b) : Inv (batchOf a b) := by
  have h := demoBatch_inv
  refine ⟨h.lanes, h.reserved, h.classified, h.untouched, h.codes, h.errors, h.neverFatal, h.threshold,
    fun e => absurd e nofun, fun e => ?_⟩
  have r := h.run e
  refine ⟨r.legal, r.running, r.cidx, r.inWork, r.donemap, r.progress, r.results, fun e => absurd rfl e, r.target, fun _ l L hL => ?_⟩
  match l, hL with
  | 0, rfl => exact ha
  | 1, rfl => exact hb
  | _ + 2, hL => simp [batchOf] at hL

/-- Lane 0 at the start of its first trial, lane 1 between a MATCH that counted and its END. -/
def demoCounted : State := batchOf { demoLane with lrun := .run } { demoLane with lrun := .run, upc := 19, mc := 1 }

/-- Lane 0 done, lane 1 faulted in its second trial. -/
def demoJoinable : State :=
  batchOf { demoLane with lrun := .done, mc := 2, tc := 2 } { demoLane with lrun := .fault, lf := some .rngFail, mc := 1, tc := 1 }

/-- Two busy states of one step number and the ends of the window; of the lane's clauses, both cases of the first and the
last; the join condition of the second. -/
theorem witness_MatchesExceedTrialsOnlyBeforeEnd :
    (Inv demoCounted ∧ demoCounted.coord.cst = .wait ∧ 1 < demoCounted.cfg.workers ∧
      (∃ L, demoCounted.lanes[0]? = some L ∧ L.mc.toNat ≤ L.tc.toNat) ∧
      (∃ L, demoCounted.lanes[1]? = some L ∧ L.lrun = .run ∧ (trialProgram demoCounted.cfg)[L.upc.toNat]? = some .endUop ∧
        L.mc.toNat = L.tc.toNat + 1)) ∧
    (Inv demoJoinable ∧ demoJoinable.coord.cst = .wait ∧ demoJoinable.joinReady = true) ∧
    (demoCounted.coord.cst ≠ .idle ∧ demoJoinable.coord.cst ≠ .idle ∧ demoCounted.inp.tick = demoJoinable.inp.tick ∧
      windowMask 0x100 = some 0xFFFFFFFF ∧ windowMask 0x19C = some 0xFFFFFFFF) :=
  ⟨⟨batchOf_inv (by constructor <;> decide) (by constructor <;> decide), rfl, by decide, ⟨_, rfl, by decide⟩,
    ⟨_, rfl, rfl, by decide, by decide⟩⟩,
   ⟨batchOf_inv (by constructor <;> decide) (by constructor <;> decide), rfl, by decide⟩, by decide⟩

end Sys2Proof.Tests
end

section
/-! ## What a micro-op can answer: its endings

A micro-op reads the configuration, the place it is issued from and its own lane (R20, R196), and nothing else. So its
answer is one *ending*, the same in every state that shows it these three. -/

namespace Sys2Proof.Machine

/-- How a micro-op ends: its lane retired as `M`, its lane `M` (the source moved on) taking the fault `f`, or its lane put
back as `M` with the micro-PC already set (END). -/
inductive Ending where
  | retired (M : Lane)
  | faulted (M : Lane) (f : LaneFault)
  | put (M : Lane)

/-- The state an ending leads to. -/
def Ending.apply (s : State) : Ending → State
  | .retired M => retire s M
  | .faulted M f => takeLaneFault s M f
  | .put M => s.putLane s.inp.issue.lane M

/-- The issuing lane after an ending of a micro-op issued from `q` (R27, R72, R305, R307). -/
def Ending.lane (q : Issue) : Ending → Lane
  | .retired M => M.advance q
  | .faulted M f =>
    match q with
    | .uopPort => M
    | .program _ => M.faulted f
  | .put M => M

@[simp] theorem Ending.lane_retired (q : Issue) (M : Lane) : (Ending.retired M).lane q = M.advance q := rfl
@[simp] theorem Ending.lane_put (q : Issue) (M : Lane) : (Ending.put M).lane q = M := rfl
@[simp] theorem Ending.lane_faulted_uopPort (M : Lane) (f : LaneFault) : (Ending.faulted M f).lane .uopPort = M := rfl
@[simp] theorem Ending.lane_faulted_program (M : Lane) (f : LaneFault) (l : Nat) :
    (Ending.faulted M f).lane (.program l) = M.faulted f := rfl

/-- An ending in a batch replaces the issuing lane and nothing else. -/
theorem Ending.apply_program {s : State} {l : Nat} (e : Ending) (hq : s.inp.issue = .program l) :
    e.apply s = s.putLane l (e.lane (.program l)) := by
  cases e <;> simp [Ending.apply, Ending.lane, retire, takeLaneFault, hq, Issue.lane]

/-- On the UOP port an ending replaces lane 0, and a fault sets its two status fields too. -/
theorem Ending.apply_uopPort {s : State} (e : Ending) (hq : s.inp.issue = .uopPort) :
    e.apply s = s.putLane 0 (e.lane .uopPort) ∨
    ∃ f, e.apply s = { s.putLane 0 (e.lane .uopPort) with status := s.status.uopFault f } := by
  cases e with
  | retired M => exact .inl (by simp [Ending.apply, retire, hq, Issue.lane])
  | put M => exact .inl (by simp [Ending.apply, hq, Issue.lane])
  | faulted M f => exact .inr ⟨f, by simp [Ending.apply, takeLaneFault, hq]⟩

@[simp] theorem Ending.apply_lanes (s : State) (e : Ending) :
    (e.apply s).lanes = s.lanes.set s.inp.issue.lane (e.lane s.inp.issue) := by
  cases hq : s.inp.issue with
  | uopPort => rcases e.apply_uopPort hq with h | ⟨f, h⟩ <;> simp [h, Issue.lane]
  | program l => simp [e.apply_program hq, Issue.lane]

theorem Ending.apply_keeps (s : State) (e : Ending) :
    (e.apply s).cfg = s.cfg ∧ (e.apply s).res = s.res ∧ (e.apply s).coord = s.coord ∧ (e.apply s).inp = s.inp := by
  cases hq : s.inp.issue with
  | uopPort => rcases e.apply_uopPort hq with h | ⟨f, h⟩ <;> simp [h]
  | program l => simp [e.apply_program hq]

theorem Ending.lane_apply {s : State} {L : Lane} (h : IssuedOn s L) (e : Ending) :
    (e.apply s).lanes[s.inp.issue.lane]? = some (e.lane s.inp.issue) := by
  simp [h.lt]

/-! ### What each micro-op may write, and what a completed one leaves -/

/-- The lane `M` differs from `L` only where `i` may write, the micro-PC, `LRUN` and `LF` left aside (R25, R26, R196). -/
structure KeepsBut (i : Instr) (L M : Lane) : Prop where
  regs : ∀ q, i.dest ≠ some q → M.reg q = L.reg q
  key : i ≠ .drawk → i ≠ .tglk → M.k = L.k
  fp : (∀ r, i ≠ .par r .fwd) → M.fp = L.fp
  bp : (∀ r, i ≠ .par r .bwd) → M.bp = L.bp
  mc : i ≠ .matchUop → M.mc = L.mc
  tc : i ≠ .endUop → M.tc = L.tc
  source : i.draws = false → KeepsSource L M

/-- A key as 128-bit mode holds it: the upper four words repeat the lower four (R146). -/
def Replicated (K : KeyWords) : Prop := ∀ j : Fin 4, K[j.val + 4] = K[j.val]

/-- What a micro-op other than END leaves in its lane when it completes, before the micro-PC is moved: the run state and
fault code as before, and the effects of DRAWK (R146), TGLK (R192) and MATCH (R193). -/
structure Retires (i : Instr) (c : CfgRegs) (L M : Lane) : Prop where
  notEnd : i ≠ .endUop
  upc : M.upc = L.upc
  lrun : M.lrun = L.lrun
  lf : M.lf = L.lf
  drawnKey : i = .drawk → c.key128 = true → Replicated M.k
  toggledKey : i = .tglk → M.k = toggleTarget c L.k
  counted : i = .matchUop → M.mc = L.countMatch.mc

/-- The endings `i` can have, issued from `q` on lane `L` under the configuration `c` (R301). -/
inductive CanEnd (i : Instr) (c : CfgRegs) (q : Issue) (L : Lane) : Ending → Prop
  | completed {M : Lane} (keeps : KeepsBut i L M) (retires : Retires i c L M) : CanEnd i c q L (.retired M)
  | rngFail (n : Nat) (draws : i.draws = true) : CanEnd i c q L (.faulted (L.moved n) .rngFail)
  | badTarget (tglk : i = .tglk) (bad : badTarget c = true) : CanEnd i c q L (.faulted (L.moved 0) .badTarget)
  | endTrial (isEnd : i = .endUop) : CanEnd i c q L (.put (L.endTrial c.trials q))

/-- All that a micro-op sees of a state: the configuration, where it is issued from, and its lane. -/
structure Sees (s : State) (c : CfgRegs) (q : Issue) (L : Lane) : Prop where
  cfg : s.cfg = c
  issue : s.inp.issue = q
  lane : IssuedOn s L

/-- A micro-op whose whole effect is a new value in its destination, the source moved on by `n` draws if it draws. -/
theorem canEnd_putReg {i : Instr} {c : CfgRegs} {q : Issue} {L : Lane} {r : SReg} {v : State16} {n : Nat}
    (hd : i.dest = some r) (hn : i.draws = false → n = 0) : CanEnd i c q L (.retired ((L.moved n).putReg r v)) := by
  refine .completed ?_ ?_
  · exact {
      regs := fun p hp => by
        have hpr : p ≠ r := fun e => hp (by rw [hd, e])
        rw [Lane.reg_putReg_ne _ _ hpr, Lane.reg_moved]
      key := fun _ _ => rfl
      fp := fun _ => rfl
      bp := fun _ => rfl
      mc := fun _ => rfl
      tc := fun _ => rfl
      source := fun h => by simp [KeepsSource, hn h] }
  · exact {
      notEnd := by rintro rfl; simp [Instr.dest] at hd
      upc := rfl
      lrun := rfl
      lf := rfl
      drawnKey := by rintro rfl; simp [Instr.dest] at hd
      toggledKey := by rintro rfl; simp [Instr.dest] at hd
      counted := by rintro rfl; simp [Instr.dest] at hd }

theorem replicated_append (ks : Vector Word 4) : Replicated (ks ++ ks) := fun j =>
  have hupper : (ks ++ ks)[j.val + 4] = ks[j.val] :=
    (Vector.getElem_append_right (by omega) (Nat.le_add_left 4 j)).trans (by simp)
  have hlower : (ks ++ ks)[j.val] = ks[j.val] := Vector.getElem_append_left j.isLt
  hupper.trans hlower.symm

/-- The key DRAWK makes in 128-bit mode repeats its lower half (R146). -/
theorem replicated_drawKey {l : Nat} {L L' : Lane} {k : KeyWords} (h : drawKey true l L = (some k, L')) :
    Replicated k := by
  simp only [drawKey, if_true] at h
  split at h
  next ks M hd =>
    obtain ⟨hk, -⟩ := Prod.mk.inj h
    exact Option.some.inj hk ▸ replicated_append ks
  next => simp at h

theorem canEnd_drawk {c : CfgRegs} {q : Issue} {L : Lane} {k : KeyWords} {n l : Nat}
    (hd : drawKey c.key128 l L = (some k, L.moved n)) : CanEnd .drawk c q L (.retired { L.moved n with k := k }) :=
  .completed
    { regs := fun _ _ => rfl, key := fun h => absurd rfl h, fp := fun _ => rfl, bp := fun _ => rfl, mc := fun _ => rfl,
      tc := fun _ => rfl, source := nofun }
    { notEnd := nofun, upc := rfl, lrun := rfl, lf := rfl, drawnKey := fun _ h => replicated_drawKey (h ▸ hd),
      toggledKey := nofun, counted := nofun }

theorem canEnd_tglk (c : CfgRegs) (q : Issue) (L : Lane) :
    CanEnd .tglk c q L (.retired { L with k := toggleTarget c L.k }) :=
  .completed
    { regs := fun _ _ => rfl, key := fun _ h => absurd rfl h, fp := fun _ => rfl, bp := fun _ => rfl, mc := fun _ => rfl,
      tc := fun _ => rfl, source := fun _ => ⟨rfl, rfl⟩ }
    { notEnd := nofun, upc := rfl, lrun := rfl, lf := rfl, drawnKey := nofun, toggledKey := fun _ => rfl, counted := nofun }

theorem canEnd_matchUop (c : CfgRegs) (q : Issue) (L : Lane) : CanEnd .matchUop c q L (.retired L.countMatch) :=
  .completed
    { regs := fun _ _ => by simp [Lane.reg], key := fun _ _ => by simp, fp := fun _ => by simp, bp := fun _ => by simp,
      mc := fun h => absurd rfl h, tc := fun _ => by simp, source := fun _ => by simp [KeepsSource] }
    { notEnd := nofun, upc := by simp, lrun := by simp, lf := by simp, drawnKey := nofun, toggledKey := nofun,
      counted := fun _ => rfl }

theorem canEnd_par (r : SReg) (f : Side) (c : CfgRegs) (q : Issue) (L : Lane) (p : Bool) :
    CanEnd (.par r f) c q L (.retired (L.putFlag f p)) :=
  .completed
    { regs := fun _ _ => by simp [Lane.reg], key := fun _ _ => by simp, mc := fun _ => by simp, tc := fun _ => by simp,
      fp := fun h => by
        cases f with
        | fwd => exact absurd rfl (h r)
        | bwd => rfl
      bp := fun h => by
        cases f with
        | fwd => rfl
        | bwd => exact absurd rfl (h r)
      source := fun _ => by simp [KeepsSource] }
    { notEnd := nofun, upc := by simp, lrun := by simp, lf := by simp, drawnKey := nofun, toggledKey := nofun,
      counted := nofun }

/-- Every micro-op has one ending, the same in all states that show it the same (R20, R196, R301). -/
theorem exec_ending (i : Instr) (c : CfgRegs) (q : Issue) (L : Lane) :
    ∃ e, CanEnd i c q L e ∧ ∀ s, Sees s c q L → exec i s = .next (e.apply s) := by
  cases i with
  | drawk =>
    rcases drawKey_cases c.key128 q.lane L with ⟨k, n, hd⟩ | ⟨n, hd⟩
    · exact ⟨_, canEnd_drawk hd, fun s ⟨hc, hq, h⟩ => exec_drawk_some h (by rw [hc, hq, hd])⟩
    · exact ⟨_, .rngFail n rfl, fun s ⟨hc, hq, h⟩ => exec_drawk_none h (by rw [hc, hq, hd])⟩
  | initc r f =>
    cases f with
    | fix => exact ⟨_, canEnd_putReg (n := 0) rfl fun _ => rfl, fun s ⟨hc, _, h⟩ => hc ▸ exec_initc_fix h r⟩
    | rnd =>
      rcases drawWords_cases q.lane 4 L with ⟨w, hw, -⟩ | ⟨k, hk, ⟨w, hw⟩, hf, -⟩
      · exact ⟨_, canEnd_putReg rfl nofun, fun s ⟨hc, hq, h⟩ => hc ▸ exec_initc_rnd_words h r w (hq ▸ hw)⟩
      · exact ⟨_, .rngFail _ rfl, fun s ⟨_, hq, h⟩ => exec_initc_rnd_fail h r hk w (hq ▸ hw) (hq ▸ hf)⟩
  | tglk =>
    by_cases hb : badTarget c = true
    · exact ⟨_, .badTarget rfl hb, fun s ⟨hc, _, h⟩ => by rw [exec_tglk h, hc, if_pos hb]; rfl⟩
    · exact ⟨_, canEnd_tglk c q L, fun s ⟨hc, _, h⟩ => by rw [exec_tglk h, hc, if_neg hb]; rfl⟩
  | matchUop => exact ⟨_, canEnd_matchUop c q L, fun s ⟨_, _, h⟩ => exec_matchUop h⟩
  | endUop => exact ⟨_, .endTrial rfl, fun s ⟨hc, hq, h⟩ => by rw [exec_endUop h, hc, ← hq]; rfl⟩
  | par r f => exact ⟨_, canEnd_par r f c q L _, fun s ⟨hc, _, h⟩ => hc ▸ exec_par h r f⟩
  | copy d r => exact ⟨_, canEnd_putReg (n := 0) rfl fun _ => rfl, fun s ⟨_, _, h⟩ => exec_copy h d r⟩
  | add z a b => exact ⟨_, canEnd_putReg (n := 0) rfl fun _ => rfl, fun s ⟨_, _, h⟩ => exec_add h z a b⟩
  | sub z a b => exact ⟨_, canEnd_putReg (n := 0) rfl fun _ => rfl, fun s ⟨_, _, h⟩ => exec_sub h z a b⟩
  | xor z a b => exact ⟨_, canEnd_putReg (n := 0) rfl fun _ => rfl, fun s ⟨_, _, h⟩ => exec_xor h z a b⟩
  | arx r rot o => exact ⟨_, canEnd_putReg (n := 0) rfl fun _ => rfl, fun s ⟨_, _, h⟩ => exec_arx h r rot o⟩
  | uarx18 r => exact ⟨_, canEnd_putReg (n := 0) rfl fun _ => rfl, fun s ⟨hc, _, h⟩ => hc ▸ exec_uarx18 h r⟩
  | hr1 r o => exact ⟨_, canEnd_putReg (n := 0) rfl fun _ => rfl, fun s ⟨_, _, h⟩ => exec_hr1 h r o⟩
  | hr2 r o => exact ⟨_, canEnd_putReg (n := 0) rfl fun _ => rfl, fun s ⟨_, _, h⟩ => exec_hr2 h r o⟩
  | bhr1 r o => exact ⟨_, canEnd_putReg (n := 0) rfl fun _ => rfl, fun s ⟨_, _, h⟩ => exec_bhr1 h r o⟩
  | bhr2 r o => exact ⟨_, canEnd_putReg (n := 0) rfl fun _ => rfl, fun s ⟨_, _, h⟩ => exec_bhr2 h r o⟩
  | fround r idx => exact ⟨_, canEnd_putReg (n := 0) rfl fun _ => rfl, fun s ⟨_, _, h⟩ => exec_fround h r idx⟩
  | bround r idx => exact ⟨_, canEnd_putReg (n := 0) rfl fun _ => rfl, fun s ⟨_, _, h⟩ => exec_bround h r idx⟩
  | inskey r => exact ⟨_, canEnd_putReg (n := 0) rfl fun _ => rfl, fun s ⟨_, _, h⟩ => exec_inskey h r⟩
  | inj r => exact ⟨_, canEnd_putReg (n := 0) rfl fun _ => rfl, fun s ⟨hc, _, h⟩ => hc ▸ exec_inj h r⟩

/-- The ending of a micro-op that answered `t`, with the issuing lane of `t`. -/
theorem exec_next_ending {i : Instr} {s t : State} {L L' : Lane} (h : IssuedOn s L) (hx : exec i s = .next t)
    (ht : t.lanes[s.inp.issue.lane]? = some L') :
    ∃ e, CanEnd i s.cfg s.inp.issue L e ∧ t = e.apply s ∧ L' = e.lane s.inp.issue := by
  obtain ⟨e, he, hexec⟩ := exec_ending i s.cfg s.inp.issue L
  have hte : t = e.apply s := Host.Outcome.next.inj (hx.symm.trans (hexec s ⟨rfl, rfl, h⟩))
  subst hte
  exact ⟨e, he, rfl, Option.some.inj (ht.symm.trans (e.lane_apply h))⟩

/-! ### The lane after an ending -/

/-- A fault leaves of the lane all but `LRUN` and `LF`, its source moved on if the micro-op draws (R305, R307). -/
theorem keepsBut_faulted {i : Instr} {L : Lane} {n : Nat} (q : Issue) (f : LaneFault) (hn : i.draws = false → n = 0) :
    KeepsBut i L ((Ending.faulted (L.moved n) f).lane q) := by
  have hsource : i.draws = false → KeepsSource L (L.moved n) := fun h => by simp [KeepsSource, hn h]
  cases q <;>
    exact ⟨fun _ _ => rfl, fun _ _ => rfl, fun _ => rfl, fun _ => rfl, fun _ => rfl, fun _ => rfl, hsource⟩

theorem CanEnd.keepsBut {i : Instr} {c : CfgRegs} {q : Issue} {L : Lane} {e : Ending} (h : CanEnd i c q L e) :
    KeepsBut i L (e.lane q) := by
  cases h with
  | completed keeps retires =>
    exact {
      regs := by simpa using keeps.regs
      key := by simpa using keeps.key
      fp := by simpa using keeps.fp
      bp := by simpa using keeps.bp
      mc := by simpa using keeps.mc
      tc := by simpa using keeps.tc
      source := by simpa [KeepsSource] using keeps.source }
  | rngFail n draws => exact keepsBut_faulted q _ fun h => by simp [h] at draws
  | badTarget => exact keepsBut_faulted q _ fun _ => rfl
  | endTrial isEnd =>
    exact ⟨fun _ _ => by simp [Lane.reg], fun _ _ => by simp, fun _ => by simp, fun _ => by simp, fun _ => by simp,
      fun h => absurd isEnd h, fun _ => by simp [KeepsSource]⟩

@[simp] theorem Lane.endTrial_uopPort (L : Lane) (n : Word64) : L.endTrial n .uopPort = { L with tc := L.tc + 1 } := rfl

/-- END of a running lane, from the trial program (R194). -/
theorem Lane.endTrial_program {L : Lane} (n : Word64) (l : Nat) (h : L.lrun = .run) :
    L.endTrial n (.program l) =
      { L with tc := L.tc + 1, upc := 0, lrun := if L.tc + 1 = n then .done else .run } := by
  simp [Lane.endTrial, h]

/-- The UOP port never moves the micro-PC, `LRUN` or `LF` (R72, R307). -/
theorem CanEnd.lane_uopPort {i : Instr} {c : CfgRegs} {L : Lane} {e : Ending} (h : CanEnd i c .uopPort L e) :
    (e.lane .uopPort).upc = L.upc ∧ (e.lane .uopPort).lrun = L.lrun ∧ (e.lane .uopPort).lf = L.lf := by
  cases h with
  | completed _ retires => exact ⟨retires.upc, retires.lrun, retires.lf⟩
  | rngFail | badTarget | endTrial => exact ⟨rfl, rfl, rfl⟩

/-- The fault of an ending is taken by R305 or R307. -/
theorem tookFault_ending {s : State} {L : Lane} (h : IssuedOn s L) (f : LaneFault) (n : Nat) :
    TookFault f s ((Ending.faulted (L.moved n) f).apply s) L ((Ending.faulted (L.moved n) f).lane s.inp.issue) := by
  obtain ⟨L', htook, -⟩ := tookFault_takeLaneFault h f n
  have hlane : (takeLaneFault s (L.moved n) f).lanes[s.inp.issue.lane]? = some L' := by
    unfold TookFault at htook
    cases hq : s.inp.issue with
    | uopPort =>
      rw [hq] at htook
      exact htook.lane
    | program l =>
      rw [hq] at htook
      exact htook.2.1
  have he : L' = (Ending.faulted (L.moved n) f).lane s.inp.issue :=
    Option.some.inj (hlane.symm.trans (Ending.lane_apply h (.faulted (L.moved n) f)))
  exact he ▸ htook

/-! ### Turns that take no step -/

theorem step_of_coordinator {s : State} (h : s.nextAgent = .coordinator) : step s = coordinatorStep s.takeTurn := by
  simp [step, stepOnce, agentStep, h]

theorem step_of_lane {s : State} {l : Nat} (h : s.nextAgent = .lane l) : step s = laneStep l s.takeTurn := by
  simp [step, stepOnce, agentStep, h]

/-- A lane that is not there takes no step. -/
theorem laneStep_of_none {s : State} {l : Nat} (h : s.lanes[l]? = none) : laneStep l s = .next s := by
  simp [laneStep, h]

/-- A lane that is not running takes no step (R214, R316). -/
theorem laneStep_of_ne_run {s : State} {l : Nat} {L : Lane} (h : s.lanes[l]? = some L) (hrun : L.lrun ≠ .run) :
    laneStep l s = .next s := by
  simp [laneStep, h, hrun]

theorem State.mem_batchLanes {s : State} {L : Lane} :
    L ∈ s.batchLanes ↔ ∃ l, l < s.cfg.workers ∧ s.lanes[l]? = some L := by
  simp [State.batchLanes, List.mem_iff_getElem?, List.getElem?_take]

/-- The join condition, lane by lane (R247). -/
theorem State.joinReady_eq_true_iff (s : State) :
    s.joinReady = true ↔ ∀ l L, l < s.cfg.workers → s.lanes[l]? = some L → L.lrun = .done ∨ L.lrun = .fault := by
  simp only [State.joinReady, List.all_eq_true, State.mem_batchLanes, Bool.or_eq_true, beq_iff_eq]
  exact ⟨fun h l L hl hL => h L ⟨l, hl, hL⟩, fun h L ⟨l, hl, hL⟩ => h l L hl hL⟩

/-! ### The statements about every micro-op, and the turns that take no step -/

/-- Settles O27, by the endings of a micro-op. -/
theorem microOpsCompleteOrTakeTheirFault : Obligations.MicroOpsCompleteOrTakeTheirFault := by
  unfold Obligations.MicroOpsCompleteOrTakeTheirFault
  intro i s L h
  obtain ⟨e, he, hexec⟩ := exec_ending i s.cfg s.inp.issue L
  obtain ⟨hcfg, hres, hcoord, hinp⟩ := e.apply_keeps s
  refine ⟨e.apply s, e.lane s.inp.issue, hexec s ⟨rfl, rfl, h⟩, e.lane_apply h, hcfg, hres, hcoord, hinp, by simp,
    fun m hm => by simp [List.getElem?_set_ne (Ne.symm hm)], ?_⟩
  cases he with
  | completed _ retires => exact .inl ⟨rfl, by simp [retires.lf], .inl (by simp [retires.lrun])⟩
  | endTrial isEnd => exact .inl ⟨rfl, by simp, .inr isEnd⟩
  | rngFail n draws => exact .inr (.inl ⟨tookFault_ending h _ n, draws⟩)
  | badTarget tglk bad => exact .inr (.inr ⟨tookFault_ending h _ 0, tglk, bad⟩)

/-- Settles O28: what an ending leaves of the lane. -/
theorem onlyNamedMicroOpsWriteEachField : Obligations.OnlyNamedMicroOpsWriteEachField := by
  unfold Obligations.OnlyNamedMicroOpsWriteEachField
  intro i s t L L' h hx ht
  obtain ⟨e, he, -, rfl⟩ := exec_next_ending h hx ht
  have k := he.keepsBut
  exact ⟨k.regs, k.key, k.fp, k.bp, k.mc, k.tc, k.source⟩

/-- Settles O29, ending by ending. -/
theorem microPcRule : Obligations.MicroPcRule := by
  unfold Obligations.MicroPcRule
  intro i s t L L' h hx ht
  obtain ⟨e, he, -, rfl⟩ := exec_next_ending h hx ht
  cases hq : s.inp.issue with
  | uopPort =>
    rw [hq] at he
    exact ⟨fun _ => he.lane_uopPort, fun hne => absurd rfl hne, fun hne => absurd rfl hne⟩
  | program l =>
    rw [hq] at he
    refine ⟨nofun, fun _ hend => ?_, fun _ hend hrun => ?_⟩
    · cases he with
      | completed _ retires => exact .inl ⟨by simp [retires.upc], by simp [retires.lrun], by simp [retires.lf]⟩
      | rngFail | badTarget => exact .inr ⟨rfl, rfl, nofun⟩
      | endTrial isEnd => exact absurd isEnd hend
    · cases he with
      | endTrial => simp [Lane.endTrial_program _ _ hrun]
      | completed _ retires => exact absurd hend retires.notEnd
      | rngFail n draws => simp [hend, Instr.draws] at draws
      | badTarget tglk => simp [hend] at tglk

/-- Settles O33. -/
theorem idleAgentsTakeNoStep : Obligations.IdleAgentsTakeNoStep := by
  unfold Obligations.IdleAgentsTakeNoStep
  intro s
  refine ⟨step_of_coordinator, fun _ => step_of_lane, fun l hl hnone => ?_, fun l L hl hL hrun => ?_,
    fun hc hidle => ?_, fun l L hc hwait hl hL hdone hfault => ?_⟩
  · exact (step_of_lane hl).trans (laneStep_of_none (s := s.takeTurn) hnone)
  · exact (step_of_lane hl).trans (laneStep_of_ne_run (s := s.takeTurn) hL hrun)
  · simp [step_of_coordinator hc, coordinatorStep, hidle]
  · have hready : s.takeTurn.joinReady ≠ true := fun h =>
      ((s.takeTurn.joinReady_eq_true_iff.mp h) l L hl hL).elim hdone hfault
    simp [step_of_coordinator hc, coordinatorStep, hwait, hready]

end Sys2Proof.Machine
end

section
/-! ## The trial program and the turn of a lane (R118, R210 to R214) -/

namespace Sys2Proof

/-! ### The encoder read back (R118) -/

/-- The decoder reads back the word of a well-formed micro-op, format by format (R118). -/
theorem decode_encode {i : Instr} (h : i.wellFormed = true) : decode (encode i) = .ok i := by
  cases i with
  | drawk | tglk | matchUop | endUop => rfl
  | copy d r => simp [encode, decode_nibbles, decodeNibbles, requireFixed, decode2, decode1]
  | add z a b | sub z a b | xor z a b => simp [encode, decode_nibbles, decodeNibbles, decode3, decode2, decode1]
  | fround s idx | bround s idx =>
    have hidx : idx ≤ 255 := by simpa [Instr.wellFormed, roundIndexOk] using h
    simp [encode, decode_nibbles, decodeNibbles, decode1]
    omega
  | uarx18 s | inskey s | inj s => simp [encode, decode_nibbles, decodeNibbles, requireFixed, decode1]
  | arx s r o =>
    cases r <;> cases o <;>
      simp [encode, decode_nibbles, decodeNibbles, requireFixed, decode1, arxNibble, Rot.sel, Ord.bit, Rot.ofSel, Ord.ofBit]
  | hr1 s o | hr2 s o | bhr1 s o | bhr2 s o =>
    cases o <;>
      simp [encode, decode_nibbles, decodeNibbles, requireFixed, decode1, nibbleOfBits, Ord.bit, Ord.ofBit, halfRound]
  | initc s f =>
    cases f <;> simp [encode, decode_nibbles, decodeNibbles, requireFixed, decode1, nibbleOfBits, Fill.bit, Fill.ofBit]
  | par s f =>
    cases f <;> simp [encode, decode_nibbles, decodeNibbles, requireFixed, decode1, nibbleOfBits, Side.bit, Side.ofBit]

end Sys2Proof

/-! ### The trial program: where MATCH and END stand, and its words (R210 to R213) -/

namespace Sys2Proof.Machine

/-- The trial program without its MATCH and END (R211, segments a to s). -/
def trialBody (c : CfgRegs) : List Instr :=
  segInit ++ segToSample c ++ segFwdSample ++ segToEnd c ++ segSumFlip ++ segBackward c ++ [.xor .D .M .MP, .par .D .bwd]

theorem trialProgram_eq_body (c : CfgRegs) : trialProgram c = trialBody c ++ [.matchUop, .endUop] := by
  simp [trialProgram, trialBody, segClose]

/-- A micro-op that may stand in the body: well-formed, and neither MATCH nor END. -/
def BodyOp (i : Instr) : Prop := i.wellFormed = true ∧ i ≠ .matchUop ∧ i ≠ .endUop

theorem forall_segmentIf {P : Instr → Prop} {b : Bool} {seg : List Instr} (h : ∀ i ∈ seg, P i) :
    ∀ i ∈ segmentIf b seg, P i := by
  cases b with
  | false => simp [segmentIf]
  | true => simpa [segmentIf] using h

theorem bodyOp_onBoth {mk : SReg → Instr} (hmk : ∀ r, BodyOp (mk r)) (p q : SReg) : ∀ i ∈ onBoth mk p q, BodyOp i := by
  intro i hi
  rcases List.mem_pair.mp hi with rfl | rfl <;> exact hmk _

theorem le_of_mem_ascending {lo hi n : Nat} (h : n ∈ ascending lo hi) : n ≤ hi := by
  simp only [ascending, List.mem_map, List.mem_range] at h
  omega

theorem CfgRegs.rint_lt (c : CfgRegs) : c.rint < 128 := (c.rounds.extractLsb' 0 7).isLt

theorem CfgRegs.fint_lt (c : CfgRegs) : c.fint < 128 := (c.rounds.extractLsb' 8 7).isLt

/-- The rounds of a span, one pair of micro-ops for each: their indices are at most 127. -/
theorem bodyOp_rounds {mk : SReg → Nat → Instr} (hmk : ∀ r idx, idx < 128 → BodyOp (mk r idx)) {idxs : List Nat}
    (hidxs : ∀ n ∈ idxs, n < 128) (p q : SReg) :
    ∀ i ∈ idxs.flatMap (fun n => onBoth (fun r => mk r n) p q), BodyOp i := by
  intro i hi
  obtain ⟨n, hn, hi⟩ := List.mem_flatMap.mp hi
  exact bodyOp_onBoth (fun r => hmk r n (hidxs n hn)) p q i hi

theorem bodyOp_fround (r : SReg) (idx : Nat) (h : idx < 128) : BodyOp (.fround r idx) := by
  simp [BodyOp, Instr.wellFormed, roundIndexOk]
  omega

theorem bodyOp_bround (r : SReg) (idx : Nat) (h : idx < 128) : BodyOp (.bround r idx) := by
  simp [BodyOp, Instr.wellFormed, roundIndexOk]
  omega

theorem bodyOp_segToSample (c : CfgRegs) : ∀ i ∈ segToSample c, BodyOp i := by
  have hrounds := bodyOp_rounds bodyOp_fround (idxs := ascending 1 c.fint)
    (fun _ hn => (le_of_mem_ascending hn).trans_lt c.fint_lt) .X .XP
  have hhalf := bodyOp_onBoth (mk := fun r => .hr1 r c.fwdOrd) (fun _ => ⟨rfl, nofun, nofun⟩) .X .XP
  simp only [segToSample, List.forall_mem_append]
  exact ⟨hrounds, forall_segmentIf hhalf⟩

theorem bodyOp_segToEnd (c : CfgRegs) : ∀ i ∈ segToEnd c, BodyOp i := by
  have hfwd := bodyOp_onBoth (mk := fun r => .hr2 r c.fwdOrd) (fun _ => ⟨rfl, nofun, nofun⟩) .X .XP
  have hrounds := bodyOp_rounds bodyOp_fround (idxs := ascending (c.bwdRound + 1) c.rint)
    (fun _ hn => (le_of_mem_ascending hn).trans_lt c.rint_lt) .X .XP
  have htotal := bodyOp_onBoth (mk := fun r => .hr1 r c.totalOrd) (fun _ => ⟨rfl, nofun, nofun⟩) .X .XP
  have htail : ∀ i ∈ segTail, BodyOp i := by simp [segTail, onBoth, BodyOp, Instr.wellFormed]
  simp only [segToEnd, List.forall_mem_append]
  exact ⟨⟨⟨forall_segmentIf hfwd, hrounds⟩, forall_segmentIf htotal⟩, forall_segmentIf htail⟩

theorem bodyOp_segBackward (c : CfgRegs) : ∀ i ∈ segBackward c, BodyOp i := by
  have htail : ∀ i ∈ segTailInverse, BodyOp i := by simp [segTailInverse, onBoth, BodyOp, Instr.wellFormed]
  have htotal := bodyOp_onBoth (mk := fun r => .bhr2 r c.totalOrd) (fun _ => ⟨rfl, nofun, nofun⟩) .M .MP
  have hrounds := bodyOp_rounds bodyOp_bround (idxs := (ascending (c.bwdRound + 1) c.rint).reverse)
    (fun _ hn => (le_of_mem_ascending (List.mem_reverse.mp hn)).trans_lt c.rint_lt) .M .MP
  have hfwd := bodyOp_onBoth (mk := fun r => .bhr1 r c.fwdOrd) (fun _ => ⟨rfl, nofun, nofun⟩) .M .MP
  simp only [segBackward, List.forall_mem_append]
  exact ⟨⟨⟨forall_segmentIf htail, forall_segmentIf htotal⟩, hrounds⟩, forall_segmentIf hfwd⟩

theorem bodyOp_of_mem_trialBody (c : CfgRegs) : ∀ i ∈ trialBody c, BodyOp i := by
  have hinit : ∀ i ∈ segInit, BodyOp i := by simp [segInit, BodyOp, Instr.wellFormed]
  have hsample : ∀ i ∈ segFwdSample, BodyOp i := by simp [segFwdSample, BodyOp, Instr.wellFormed]
  have hsum : ∀ i ∈ segSumFlip, BodyOp i := by simp [segSumFlip, BodyOp, Instr.wellFormed]
  have hlast : ∀ i ∈ [.xor .D .M .MP, .par .D .bwd], BodyOp i := by simp [BodyOp, Instr.wellFormed]
  simp only [trialBody, List.forall_mem_append]
  exact ⟨⟨⟨⟨⟨⟨hinit, bodyOp_segToSample c⟩, hsample⟩, bodyOp_segToEnd c⟩, hsum⟩, bodyOp_segBackward c⟩, hlast⟩

theorem wellFormed_of_mem_trialProgram {c : CfgRegs} {i : Instr} (h : i ∈ trialProgram c) : i.wellFormed = true := by
  rw [trialProgram_eq_body, List.mem_append] at h
  rcases h with h | h
  · exact (bodyOp_of_mem_trialBody c i h).1
  · rcases List.mem_pair.mp h with rfl | rfl <;> rfl

@[simp] theorem length_segmentIf (b : Bool) (seg : List Instr) : (segmentIf b seg).length = b.toNat * seg.length := by
  cases b <;> simp [segmentIf]

theorem length_rounds (mk : SReg → Nat → Instr) (idxs : List Nat) (p q : SReg) :
    (idxs.flatMap (fun n => onBoth (fun r => mk r n) p q)).length = idxs.length * 2 := by
  simp [List.length_flatMap, onBoth]

@[simp] theorem length_ascending (lo hi : Nat) : (ascending lo hi).length = hi + 1 - lo := by
  simp [ascending]

/-- The length of the list is the formula of R213. -/
theorem length_trialProgram (c : CfgRegs) : (trialProgram c).length = trialLength c := by
  have hfwd := length_rounds .fround
  have hbwd := length_rounds .bround
  simp only [trialProgram, segToSample, segToEnd, segBackward, List.length_append, hfwd, hbwd, length_segmentIf,
    length_ascending, List.length_reverse, trialLength]
  simp [segInit, segFwdSample, segTail, segSumFlip, segTailInverse, segClose, onBoth]
  omega

theorem trialLength_ge (c : CfgRegs) : 20 ≤ trialLength c := by
  unfold trialLength
  omega

theorem trialLength_le (c : CfgRegs) : trialLength c ≤ 1024 := by
  have hf := c.fint_lt
  have hr := c.rint_lt
  have ht : ∀ b : Bool, b.toNat ≤ 1 := by decide
  have h1 := ht c.ffrac
  have h2 := ht c.rfrac
  have h3 := ht c.tailen
  unfold trialLength
  omega

/-- Where a micro-op of the list stands: MATCH second to last, END last, every other before them (R211). -/
theorem trialProgram_position {c : CfgRegs} {n : Nat} {i : Instr} (h : (trialProgram c)[n]? = some i) :
    (BodyOp i ∧ n + 2 < trialLength c) ∨ (i = .matchUop ∧ n + 2 = trialLength c) ∨
    (i = .endUop ∧ n + 1 = trialLength c) := by
  have hlen : trialLength c = (trialBody c).length + 2 := by
    rw [← length_trialProgram, trialProgram_eq_body, List.length_append]
    rfl
  rw [trialProgram_eq_body] at h
  rcases Nat.lt_or_ge n (trialBody c).length with hn | hn
  · rw [List.getElem?_append_left hn] at h
    exact .inl ⟨bodyOp_of_mem_trialBody c i (List.mem_of_getElem? h), by omega⟩
  · rw [List.getElem?_append_right hn] at h
    match hd : n - (trialBody c).length, h with
    | 0, h => exact .inr (.inl ⟨(Option.some.inj h).symm, by omega⟩)
    | 1, h => exact .inr (.inr ⟨(Option.some.inj h).symm, by omega⟩)
    | _ + 2, h => simp at h

/-- The second micro-op of the list is DRAWK (R211, segment a). -/
theorem trialProgram_one (c : CfgRegs) : (trialProgram c)[1]? = some .drawk := by
  simp [trialProgram, segInit]

/-! ### The turn of a lane (R214) -/

/-- A lane that is not there, or not running, takes no step (R316). -/
theorem laneStep_of_not_running {s : State} {l : Nat} (h : ∀ L, s.lanes[l]? = some L → L.lrun ≠ .run) :
    laneStep l s = .next s := by
  cases hL : s.lanes[l]? with
  | none => exact laneStep_of_none hL
  | some L => exact laneStep_of_ne_run hL (h L hL)

/-- The lane `L` is running, and the micro-op at its micro-PC is `i`. -/
structure Runs (c : CfgRegs) (L : Lane) (i : Instr) : Prop where
  running : L.lrun = .run
  legal : c.roundsLegal = true
  fetched : (trialProgram c)[L.upc.toNat]? = some i

/-- The turn of a running lane is the micro-op at its micro-PC (R214). -/
theorem laneStep_of_runs {s : State} {l : Nat} {L : Lane} {i : Instr} (hL : s.lanes[l]? = some L) (h : Runs s.cfg L i) :
    laneStep l s = exec i (s.issuedFrom (.program l)) := by
  have hword : (trialWords s.cfg)[L.upc.toNat]? = some (encode i) := by simp [trialWords, h.fetched]
  have hdecode := decode_encode (wellFormed_of_mem_trialProgram (List.mem_of_getElem? h.fetched))
  simp [laneStep, hL, h.running, h.legal, hword, runWord, hdecode]

/-- A lane's turn that answers a next state: the lane takes no step, or is running a micro-op of the list. -/
theorem laneStep_cases {s a : State} {l : Nat} (h : laneStep l s = .next a) :
    (∀ L, s.lanes[l]? = some L → L.lrun ≠ .run) ∨ ∃ L i, s.lanes[l]? = some L ∧ Runs s.cfg L i := by
  unfold laneStep at h
  split at h
  next hnone => exact .inl fun L hL => by simp [hnone] at hL
  next L hL =>
    split at h
    next hrun => exact .inl fun M hM => by rwa [← Option.some.inj (hL.symm.trans hM)]
    next hrun =>
      split at h
      next => simp at h
      next hlegal =>
        split at h
        next u hu =>
          obtain ⟨i, hi, -⟩ : ∃ i, (trialProgram s.cfg)[L.upc.toNat]? = some i ∧ encode i = u := by
            simpa [trialWords] using hu
          exact .inr ⟨L, i, hL, not_not.mp hrun, by simpa using hlegal, hi⟩
        next => simp at h

/-- The state after the turn of lane `l`: as it was, or with the lane `M` in place of the old one. -/
def State.afterTurn (s : State) (l : Nat) : Option Lane → State
  | none => s
  | some M => (s.issuedFrom (.program l)).putLane l M

theorem State.afterTurn_keeps (s : State) (l : Nat) (o : Option Lane) :
    (s.afterTurn l o).cfg = s.cfg ∧ (s.afterTurn l o).status = s.status ∧ (s.afterTurn l o).res = s.res ∧
      (s.afterTurn l o).coord = s.coord := by
  cases o <;> exact ⟨rfl, rfl, rfl, rfl⟩

theorem State.lane_afterTurn_ne (s : State) {l m : Nat} (h : m ≠ l) (o : Option Lane) :
    (s.afterTurn l o).lanes[m]? = s.lanes[m]? := by
  cases o with
  | none => rfl
  | some M => exact State.lane_putLane_ne _ M h

theorem State.afterTurn_comm (s : State) {l m : Nat} (h : l ≠ m) (o p : Option Lane) :
    ((s.afterTurn l o).afterTurn m p).lanes = ((s.afterTurn m p).afterTurn l o).lanes := by
  cases o <;> cases p <;> simp [State.afterTurn, List.set_comm _ _ h]

/-- The micro-op of a running lane ends the same in every state with that configuration and that lane (R20). -/
theorem laneStep_ending (c : CfgRegs) (l : Nat) {L : Lane} {i : Instr} (h : Runs c L i) :
    ∃ e, CanEnd i c (.program l) L e ∧ ∀ s : State, s.cfg = c → s.lanes[l]? = some L →
      laneStep l s = .next (s.afterTurn l (some (e.lane (.program l)))) := by
  obtain ⟨e, he, hexec⟩ := exec_ending i c (.program l) L
  refine ⟨e, he, fun s hc hL => ?_⟩
  subst hc
  have hsees : Sees (s.issuedFrom (.program l)) s.cfg (.program l) L := ⟨rfl, rfl, hL⟩
  rw [laneStep_of_runs hL h, hexec _ hsees, e.apply_program hsees.issue]
  rfl

/-- A lane's turn reads the configuration and that lane, and changes that lane only (R20, R214). -/
theorem laneStep_local {s a : State} {l : Nat} (h : laneStep l s = .next a) :
    ∃ o, ∀ s' : State, s'.cfg = s.cfg → s'.lanes[l]? = s.lanes[l]? → laneStep l s' = .next (s'.afterTurn l o) := by
  rcases laneStep_cases h with hidle | ⟨L, i, hL, hruns⟩
  · exact ⟨none, fun s' _ hl => laneStep_of_not_running (hl ▸ hidle)⟩
  · obtain ⟨e, -, he⟩ := laneStep_ending s.cfg l hruns
    exact ⟨_, fun s' hc hl => he s' hc (hl.trans hL)⟩

/-- Settles O57: each turn is local to its lane, and replacing two different lanes commutes. -/
theorem laneStepsCommute : Obligations.LaneStepsCommute := by
  unfold Obligations.LaneStepsCommute
  intro s a b l m hlm ha hb
  obtain ⟨o, hl⟩ := laneStep_local ha
  obtain ⟨p, hm⟩ := laneStep_local hb
  have hsa : a = s.afterTurn l o := Host.Outcome.next.inj (ha.symm.trans (hl s rfl rfl))
  have hab : b = a.afterTurn m p := Host.Outcome.next.inj (hb.symm.trans (hm a rfl rfl))
  subst hsa hab
  have hms := hm s (s.afterTurn_keeps l o).1.symm (s.lane_afterTurn_ne hlm.symm o).symm
  have hls := hl (s.afterTurn m p) (s.afterTurn_keeps m p).1 (s.lane_afterTurn_ne hlm p)
  refine ⟨_, _, hms, hls, (s.afterTurn_comm hlm o p).symm, ?_⟩
  cases o <;> cases p <;> exact ⟨rfl, rfl, rfl, rfl⟩

end Sys2Proof.Machine
end

section
/-! ## The invariant under a lane's turn (R214) -/

namespace Sys2Proof.Machine

/-! ### Configurations a run can have (R242) -/

theorem startRefusal_eq_none_iff {c : CfgRegs} {n : Nat} :
    startRefusal c n = none ↔
      c.roundsLegal = true ∧ c.workers ≠ 0 ∧ c.workers ≤ n ∧ c.trials ≠ 0 ∧ c.trials.toNat ≤ 2 ^ 40 := by
  unfold startRefusal
  grind

theorem CfgRegs.keyBitCount_le (c : CfgRegs) : c.keyBitCount ≤ 256 := by
  unfold CfgRegs.keyBitCount CfgRegs.keyWordCount
  split <;> decide

theorem toNat_cidx_succ {x : BitVec 9} (h : x.toNat < 256) : (x + 1).toNat = x.toNat + 1 :=
  BitVec.toNat_add_of_lt (by simp; omega)

theorem targetOf_toNat (x : BitVec 9) : (targetOf x).toNat = x.toNat % 256 := by
  simp only [targetOf, BitVec.toNat_setWidth, BitVec.extractLsb'_toNat, Nat.shiftRight_zero]
  omega

theorem CfgRegs.kw_val (c : CfgRegs) : c.kw.val = c.target.toNat / 32 % 8 := by
  simp [CfgRegs.kw, Nat.shiftRight_eq_div_pow]

/-- An index in work is below `key_bit_count`, so its key word exists and TGLK does not fault (R192, R246). -/
theorem badTarget_of_target {c : CfgRegs} {x : BitVec 9} (ht : c.target = targetOf x) (hx : x.toNat < c.keyBitCount) :
    badTarget c = false := by
  cases hk : c.key128 with
  | false => simp [badTarget, hk]
  | true =>
    have hlt : x.toNat < 128 := by simpa [CfgRegs.keyBitCount, CfgRegs.keyWordCount, hk] using hx
    have hkw : c.kw.val < 4 := by
      rw [c.kw_val, ht, targetOf_toNat]
      omega
    simp [badTarget, hkw]

theorem CfgRegs.unskippedBelow_succ (c : CfgRegs) (n : Nat) :
    c.unskippedBelow (n + 1) = c.unskippedBelow n + if mapBit c.skip n then 0 else 1 := by
  cases h : mapBit c.skip n <;> simp [CfgRegs.unskippedBelow, List.range_succ, h]

theorem CfgRegs.unskippedBelow_le (c : CfgRegs) (n : Nat) : c.unskippedBelow n ≤ n :=
  List.countP_le_length.trans_eq List.length_range

/-! ### A lane of the batch (R192, R193, R214) -/

/-- TGLK keeps the replica of the key in 128-bit mode (R192). -/
theorem replicated_toggleTarget {c : CfgRegs} {K : KeyWords} (hbad : badTarget c = false) (hc : c.key128 = true)
    (h : Replicated K) : Replicated (toggleTarget c K) := by
  intro j
  have hkw : c.kw.val < 4 := by simpa [badTarget, hc] using hbad
  have hkw4 : (c.kw + 4).val = c.kw.val + 4 := by
    rw [Fin.val_add]
    exact Nat.mod_eq_of_lt (show c.kw.val + 4 < 8 by omega)
  have hj := j.isLt
  have hK : K[j.val + 4] = K[j.val] := h j
  have hupper : j.val + 4 ≠ c.kw.val := by omega
  have hlower : j.val ≠ c.kw.val + 4 := by omega
  simp [toggleTarget, hc, getElem_toggleKeyBit, hkw4, hK, hupper, hlower]

theorem Lane.countMatch_mc_le (L : Lane) : L.countMatch.mc.toNat ≤ L.mc.toNat + 1 := by
  unfold Lane.countMatch
  split
  · simp only [BitVec.toNat_add]
    exact Nat.mod_le _ _
  · exact Nat.le_succ _

section
variable {c : CfgRegs} {L M : Lane} {i : Instr} {l : Nat} {e : Ending}

/-- A completed micro-op of the list other than END leaves a lane of the batch as one. -/
theorem BatchLane.advance (hb : BatchLane c L) (hr : Runs c L i) (hbad : badTarget c = false) (hk : KeepsBut i L M)
    (hM : Retires i c L M) : BatchLane c (M.advance (.program l)) := by
  have hlen := trialLength_le c
  have hpos := trialProgram_position hr.fetched
  have hnext : L.upc.toNat + 1 < trialLength c := by
    rcases hpos with ⟨-, h⟩ | ⟨-, h⟩ | ⟨hend, -⟩
    · omega
    · omega
    · exact absurd hend hM.notEnd
  have hupc : (M.advance (.program l)).upc.toNat = L.upc.toNat + 1 := by
    rw [Lane.advance_program_upc, hM.upc]
    exact BitVec.toNat_add_of_lt (by simp; omega)
  have hrun : M.lrun = .run := hM.lrun.trans hr.running
  have htc : M.tc = L.tc := hk.tc hM.notEnd
  have hmc : L.mc.toNat ≤ L.tc.toNat := hb.counted (by omega)
  obtain ⟨htrials, -, hlf⟩ := hb.running hr.running
  refine {
    dispatched := by simp [hrun]
    trials := by simpa [htc] using htrials.le
    running := fun _ => ⟨by simpa [htc] using htrials, by omega, by simp [hM.lf, hlf]⟩
    done := fun h => by simp [hrun] at h
    faulted := fun h => by simp [hrun] at h
    closing := fun _ => ?_, counted := fun h => ?_, replica := fun h128 _ h2 => ?_ }
  · have hle : M.mc.toNat ≤ L.mc.toNat + 1 := by
      by_cases him : i = .matchUop
      · exact hM.counted him ▸ L.countMatch_mc_le
      · rw [hk.mc him]
        exact Nat.le_succ _
    rw [Lane.advance_tc, htc, Lane.advance_mc]
    omega
  · have him : i ≠ .matchUop := by
      rintro rfl
      rcases hpos with ⟨hbody, -⟩ | ⟨-, hend⟩ | ⟨hend, -⟩
      · exact hbody.2.1 rfl
      · exact h (by omega)
      · cases hend
    rw [Lane.advance_tc, htc, Lane.advance_mc, hk.mc him]
    exact hmc
  · rw [Lane.advance_k]
    by_cases hdraw : i = .drawk
    · exact hM.drawnKey hdraw h128
    have hupc2 : 2 ≤ L.upc.toNat := by
      by_contra hlt
      have h1 : L.upc.toNat = 1 := by omega
      have hfetch := hr.fetched
      rw [h1, trialProgram_one] at hfetch
      exact hdraw (Option.some.inj hfetch).symm
    have hrep : Replicated L.k := hb.replica h128 hr.running hupc2
    by_cases htgl : i = .tglk
    · exact hM.toggledKey htgl ▸ replicated_toggleTarget hbad h128 hrep
    · exact hk.key hdraw htgl ▸ hrep

/-- A failing draw stops a lane of the batch where it stands (R305). -/
theorem BatchLane.faulted_of_draws (hb : BatchLane c L) (hr : Runs c L i) (hdraws : i.draws = true) (n : Nat) :
    BatchLane c ((L.moved n).faulted .rngFail) := by
  obtain ⟨htrials, -, -⟩ := hb.running hr.running
  have hpos : L.upc.toNat + 1 ≠ trialLength c := by
    rcases trialProgram_position hr.fetched with ⟨-, h⟩ | ⟨-, h⟩ | ⟨rfl, -⟩
    · omega
    · omega
    · cases hdraws
  exact {
    dispatched := nofun
    trials := hb.trials
    running := nofun
    done := nofun
    faulted := fun _ => ⟨htrials, rfl, hpos⟩
    closing := hb.closing
    counted := hb.counted
    replica := nofun }

/-- END closes the trial of a lane of the batch (R194). -/
theorem BatchLane.endTrial (hb : BatchLane c L) (hr : Runs c L .endUop) :
    BatchLane c (L.endTrial c.trials (.program l)) := by
  obtain ⟨htrials, -, hlf⟩ := hb.running hr.running
  have hlen := trialLength_ge c
  have hpos : L.upc.toNat + 1 = trialLength c := by
    rcases trialProgram_position hr.fetched with ⟨hbody, -⟩ | ⟨h, -⟩ | ⟨-, h⟩
    · exact absurd rfl hbody.2.2
    · cases h
    · exact h
  have htc : (L.tc + 1).toNat = L.tc.toNat + 1 := BitVec.toNat_add_of_lt (by have := c.trials.isLt; simp; omega)
  have hmc := hb.closing hpos
  rw [Lane.endTrial_program _ _ hr.running]
  by_cases hlast : L.tc + 1 = c.trials
  · rw [if_pos hlast]
    exact {
      dispatched := nofun
      trials := by simp only [hlast]; exact le_refl _
      running := nofun
      done := fun _ => ⟨hlast, rfl, hlf⟩
      faulted := nofun
      closing := fun h => by simp at h; omega
      counted := fun _ => by simp only [htc]; exact hmc
      replica := nofun }
  · have hlt : L.tc.toNat + 1 < c.trials.toNat := by
      have hne : L.tc.toNat + 1 ≠ c.trials.toNat := fun h => hlast (BitVec.eq_of_toNat_eq (htc.trans h))
      omega
    rw [if_neg hlast]
    exact {
      dispatched := nofun
      trials := by simp only [htc]; omega
      running := fun _ => ⟨by simp only [htc]; omega, by simp; omega, hlf⟩
      done := nofun
      faulted := nofun
      closing := fun h => by simp at h; omega
      counted := fun _ => by simp only [htc]; exact hmc
      replica := fun _ _ h => by simp at h }

/-- A lane of the batch stays one, whichever way its micro-op ends. -/
theorem BatchLane.ending (hb : BatchLane c L) (hr : Runs c L i) (hbad : badTarget c = false)
    (he : CanEnd i c (.program l) L e) : BatchLane c (e.lane (.program l)) := by
  cases he with
  | completed keeps retires => exact hb.advance (l := l) hr hbad keeps retires
  | rngFail n draws => exact hb.faulted_of_draws hr draws n
  | badTarget _ bad => simp [hbad] at bad
  | endTrial isEnd =>
    subst isEnd
    exact hb.endTrial (l := l) hr

end

/-! ### The turn of a lane -/

/-- The invariant does not speak of the model's own inputs. -/
theorem Inv.withInp {s : State} (h : Inv s) (x : Inputs) : Inv { s with inp := x } :=
  { h with run := fun hb => { h.run hb with } }

theorem Inv.takeTurn {s : State} (h : Inv s) : Inv s.takeTurn := h.withInp _

/-- A running lane is one of the batch in work (R240, R246). -/
theorem Inv.of_running {s : State} (h : Inv s) {l : Nat} {L : Lane} (hL : s.lanes[l]? = some L) (hrun : L.lrun = .run) :
    s.coord.cst = .wait ∧ RunInv s ∧ l < s.cfg.workers ∧ BatchLane s.cfg L := by
  have hmem := List.mem_of_getElem? hL
  have hbusy : s.coord.cst ≠ .idle := fun hi => by simp [h.idle hi L hmem] at hrun
  have r := h.run hbusy
  have hwait : s.coord.cst = .wait := by
    by_contra hw
    simp [r.quiet hw L hmem] at hrun
  have hl : l < s.cfg.workers := by
    by_contra hlw
    have hidle := r.batch hwait l L hL
    rw [if_neg hlw] at hidle
    simp [hidle] at hrun
  have hbatch := r.batch hwait l L hL
  rw [if_pos hl] at hbatch
  exact ⟨hwait, r, hl, hbatch⟩

/-- Replacing a lane of the batch by another keeps the invariant. -/
theorem Inv.putLane {s : State} (h : Inv s) (hwait : s.coord.cst = .wait) {l : Nat} (hl : l < s.cfg.workers) {M : Lane}
    (hM : BatchLane s.cfg M) : Inv (s.putLane l M) := by
  have hbusy : s.coord.cst ≠ .idle := by simp [hwait]
  have r := h.run hbusy
  exact { h with
    lanes := by simpa using h.lanes
    idle := fun hi => absurd hi hbusy
    run := fun _ => { r with
      legal := by simpa using r.legal
      quiet := fun hq => absurd hwait hq
      batch := fun _ m N hN => by
        by_cases hm : m = l
        · subst hm
          obtain ⟨hlt, -⟩ := List.getElem?_eq_some_iff.mp hN
          have hNM : M = N := by simpa [show m < s.lanes.length by simpa using hlt] using hN
          exact (if_pos hl).mpr (hNM ▸ hM)
        · rw [State.lane_putLane_ne _ _ hm] at hN
          exact r.batch hwait m N hN } }

theorem Inv.laneStep {s t : State} {l : Nat} (h : Inv s) (hx : laneStep l s = .next t) : Inv t := by
  rcases laneStep_cases hx with hidle | ⟨L, i, hL, hr⟩
  · rw [laneStep_of_not_running hidle] at hx
    cases hx
    exact h
  · obtain ⟨hwait, r, hl, hb⟩ := h.of_running hL hr.running
    obtain ⟨hcidx, -⟩ := r.inWork (by simp [hwait])
    obtain ⟨e, he, hnext⟩ := laneStep_ending s.cfg l hr
    rw [hnext s rfl hL] at hx
    cases hx
    have hM := hb.ending hr (badTarget_of_target (r.target hwait) hcidx) he
    exact Inv.putLane (h.withInp (s.issuedFrom (.program l)).inp) hwait hl hM

end Sys2Proof.Machine
end

section
/-! ## The invariant under the coordinator's steps (R245 to R250) -/

namespace Sys2Proof.Machine

/-! ### What a commit leaves of the maps and results (R249) -/

section
variable (r : ResultRegs) {idx : Nat} (count bias threff : Word64)

theorem ResultRegs.mapBit_donemap_commit (hidx : idx < 256) (j : Nat) :
    mapBit (r.commit idx count bias threff).donemap j = (mapBit r.donemap j || decide (j = idx)) :=
  mapBit_mapSet _ _ _ hidx

theorem ResultRegs.mapBit_pnb_commit (hidx : idx < 256) (j : Nat) :
    mapBit (r.commit idx count bias threff).pnb j = (mapBit r.pnb j || decide (j = idx) && isPnb bias threff) := by
  cases hp : isPnb bias threff <;> simp [ResultRegs.commit, hp, mapBit_mapSet _ _ _ hidx]

theorem ResultRegs.mapBit_npnb_commit (hidx : idx < 256) (j : Nat) :
    mapBit (r.commit idx count bias threff).npnb j = (mapBit r.npnb j || decide (j = idx) && !isPnb bias threff) := by
  cases hp : isPnb bias threff <;> simp [ResultRegs.commit, hp, mapBit_mapSet _ _ _ hidx]

theorem ResultRegs.matchCounts_commit (j : Fin 256) :
    (r.commit idx count bias threff).matchCounts[j] = if j.val = idx then count else r.matchCounts[j] := by
  by_cases h : j.val = idx
  · simp [ResultRegs.commit, h]
  · simp [ResultRegs.commit, h, Vector.getElem_setIfInBounds_ne, Ne.symm h]

theorem ResultRegs.bias_commit (j : Fin 256) :
    (r.commit idx count bias threff).bias[j] = if j.val = idx then bias else r.bias[j] := by
  by_cases h : j.val = idx
  · simp [ResultRegs.commit, h]
  · simp [ResultRegs.commit, h, Vector.getElem_setIfInBounds_ne, Ne.symm h]

end

/-! ### Scan, dispatch and progress -/

theorem Inv.scanning {s : State} (h : Inv s) (hscan : s.coord.cst = .scan) : RunInv s :=
  h.run (by simp [hscan])

theorem Inv.complete {s : State} (h : Inv s) (hscan : s.coord.cst = .scan) : Inv s.complete :=
  { h with
    idle := fun _ => (h.scanning hscan).quiet (by simp [hscan])
    run := fun hb => absurd rfl hb }

/-- The scan passes an index that is to be skipped (R245). -/
theorem Inv.skip {s : State} (h : Inv s) (hscan : s.coord.cst = .scan) (hlast : s.coord.cidx.toNat ≠ s.cfg.keyBitCount)
    (hskip : mapBit s.cfg.skip s.coord.cidx.toNat = true) :
    Inv { s with coord := { s.coord with cidx := s.coord.cidx + 1 } } := by
  have r := h.scanning hscan
  have hle := r.cidx
  have hbits := s.cfg.keyBitCount_le
  have hsucc : (s.coord.cidx + 1).toNat = s.coord.cidx.toNat + 1 := toNat_cidx_succ (by omega)
  exact { h with
    idle := fun hi => by simp [hscan] at hi
    run := fun _ => { r with
      cidx := by simp only [hsucc]; omega
      inWork := fun hne => absurd hscan hne
      donemap := fun idx => by
        have hd := r.donemap idx
        simp only [State.completedBelow, hscan, hsucc] at hd ⊢
        rw [hd]
        by_cases he : idx = s.coord.cidx.toNat
        · simp [he, hskip]
        · have : idx < s.coord.cidx.toNat + 1 ↔ idx < s.coord.cidx.toNat := by omega
          simp [this]
      progress := by simp only [hsucc, CfgRegs.unskippedBelow_succ, hskip, r.progress]; rfl
      quiet := fun _ => r.quiet (by simp [hscan])
      target := fun hw => by simp [hscan] at hw
      batch := fun hw => by simp [hscan] at hw } }

theorem batchLane_dispatch {c : CfgRegs} (L : Lane) (ht : c.trials ≠ 0) : BatchLane c L.dispatch := by
  have hlen := trialLength_ge c
  have hpos : 0 < c.trials.toNat := Nat.pos_of_ne_zero fun h => ht (BitVec.eq_of_toNat_eq h)
  exact {
    dispatched := nofun
    trials := Nat.zero_le _
    running := fun _ => ⟨hpos, by simp; omega, rfl⟩
    done := nofun
    faulted := nofun
    closing := fun _ => Nat.zero_le _
    counted := fun _ => Nat.zero_le _
    replica := fun _ _ h => by simp at h }

/-- A batch is dispatched for an index that is not skipped (R246). -/
theorem Inv.dispatchBatch {s : State} (h : Inv s) (hscan : s.coord.cst = .scan)
    (hlast : s.coord.cidx.toNat ≠ s.cfg.keyBitCount) (hskip : mapBit s.cfg.skip s.coord.cidx.toNat = false) :
    Inv s.dispatchBatch := by
  have r := h.scanning hscan
  have hle := r.cidx
  obtain ⟨hmode, hrounds, hnw, -⟩ := h.reserved
  have htarget : (targetOf s.coord.cidx).toNat < 2 ^ 8 := by
    rw [targetOf_toNat]
    exact Nat.mod_lt _ (by decide)
  obtain ⟨-, -, -, htrials, -⟩ := startRefusal_eq_none_iff.mp r.legal
  exact { h with
    lanes := by simpa using h.lanes
    reserved := ⟨hmode, hrounds, hnw, htarget⟩
    idle := nofun
    run := fun _ => { r with
      legal := by
        rw [State.dispatchBatch_lanes, length_mapLanesFrom]
        exact r.legal
      inWork := fun _ => ⟨Nat.lt_of_le_of_ne hle hlast, hskip⟩
      donemap := fun idx => by
        have hd := r.donemap idx
        simpa [State.completedBelow, hscan] using hd
      quiet := fun hq => absurd rfl hq
      target := fun _ => rfl
      batch := fun _ l L hL => by
        rw [State.dispatchBatch_lanes, getElem?_mapLanesFrom, Nat.zero_add, Option.map_eq_some_iff] at hL
        obtain ⟨M, hM, rfl⟩ := hL
        by_cases hl : l < s.cfg.workers
        · refine (if_pos hl).mpr ?_
          rw [if_pos hl]
          exact batchLane_dispatch M htrials
        · refine (if_neg hl).mpr ?_
          rw [if_neg hl]
          exact r.quiet (by simp [hscan]) M (List.mem_of_getElem? hM) } }

theorem Inv.scan {s : State} (h : Inv s) (hscan : s.coord.cst = .scan) : Inv s.scan := by
  unfold State.scan
  split
  next => exact h.complete hscan
  next hlast =>
    split
    next hskip => exact h.skip hscan hlast hskip
    next hskip => exact h.dispatchBatch hscan hlast (by simpa using hskip)

/-- The result of an index is counted and the scan moves on (R250). -/
theorem Inv.countProgress {s : State} (h : Inv s) (hprog : s.coord.cst = .prog) : Inv s.countProgress := by
  have r := h.run (by simp [hprog])
  obtain ⟨hlt, hskip⟩ := r.inWork (by simp [hprog])
  have hbits := s.cfg.keyBitCount_le
  have hsucc : (s.coord.cidx + 1).toNat = s.coord.cidx.toNat + 1 := toNat_cidx_succ (by omega)
  have hprogress : (s.res.progress + 1).toNat = s.res.progress.toNat + 1 := by
    have hle := s.cfg.unskippedBelow_le s.coord.cidx.toNat
    have := r.progress
    exact BitVec.toNat_add_of_lt (by simp; omega)
  have hbelow : s.countProgress.completedBelow = s.completedBelow := by
    simp only [State.completedBelow, State.countProgress_coord, hsucc, hprog]
    rfl
  exact { h with
    idle := nofun
    run := fun _ => { r with
      cidx := by simp only [State.countProgress_coord, hsucc]; exact hlt
      inWork := fun hne => absurd rfl hne
      donemap := fun idx => by
        rw [hbelow]
        exact r.donemap idx
      progress := by
        simp only [State.countProgress_res, State.countProgress_coord, State.countProgress_cfg, hsucc, hprogress,
          CfgRegs.unskippedBelow_succ, hskip, r.progress]
        rfl
      quiet := fun _ => r.quiet (by simp [hprog])
      target := nofun
      batch := nofun } }

/-! ### The join (R247 to R249) -/

theorem toNat_sum_le {b : Nat} (ws : List Word64) (h : ∀ w ∈ ws, w.toNat ≤ b) : ws.sum.toNat ≤ ws.length * b := by
  induction ws with
  | nil => simp
  | cons w ws ih =>
    have hw : w.toNat ≤ b := h w (by simp)
    have hs := ih fun v hv => h v (by simp [hv])
    calc ((w :: ws).sum).toNat ≤ w.toNat + ws.sum.toNat := by
          rw [List.sum_cons, BitVec.toNat_add]
          exact Nat.mod_le _ _
      _ ≤ (w :: ws).length * b := by
          rw [List.length_cons, Nat.succ_mul]
          omega

/-- A lane of the batch adds at most `S` matches (R26, R247). -/
theorem BatchLane.contribution_le {c : CfgRegs} {L : Lane} (hb : BatchLane c L) :
    L.contribution.toNat ≤ c.trials.toNat := by
  unfold Lane.contribution
  split
  next hdone =>
    obtain ⟨htc, hupc, -⟩ := hb.done hdone
    have hlen := trialLength_ge c
    have hmc := hb.counted (by simp [hupc]; omega)
    rwa [htc] at hmc
  next => exact Nat.zero_le _

/-- `matches ≤ W·S` (R247). -/
theorem RunInv.batchMatches_le {s : State} (r : RunInv s) (hwait : s.coord.cst = .wait) :
    s.batchMatches.toNat ≤ s.batchTrials := by
  have hsum : s.batchMatches.toNat ≤ (s.batchLanes.map Lane.contribution).length * s.cfg.trials.toNat := by
    apply toNat_sum_le
    intro w hw
    obtain ⟨L, hL, rfl⟩ := List.mem_map.mp hw
    obtain ⟨l, hl, hlane⟩ := State.mem_batchLanes.mp hL
    have hb := r.batch hwait l L hlane
    rw [if_pos hl] at hb
    exact hb.contribution_le
  have hcount : (s.batchLanes.map Lane.contribution).length ≤ s.cfg.workers := by
    simp [State.batchLanes]
  exact hsum.trans (Nat.mul_le_mul_right _ hcount)

/-- Counting the faults of a batch keeps the invariant (R247). -/
theorem Inv.countFaults {s : State} (h : Inv s) : Inv s.countFaults := by
  unfold State.countFaults
  split
  next => exact h
  next hn =>
    have hcount : (saturatingCount s.res.wkerrcnt s.batchFaults).toNat ≠ 0 := by
      rw [saturatingCount, BitVec.toNat_ofNat]
      omega
    exact { h with
      errors := fun _ he => hcount (congrArg BitVec.toNat he)
      run := fun hb => { h.run hb with } }

/-- The index in work has no result yet (R249, R252). -/
theorem RunInv.not_done {s : State} (r : RunInv s) (hwait : s.coord.cst = .wait) :
    mapBit s.res.donemap s.coord.cidx.toNat = false := by
  rw [r.donemap, State.completedBelow]
  simp [hwait]

theorem RunInv.releaseBatch_idle {s : State} (r : RunInv s) (hwait : s.coord.cst = .wait) :
    ∀ L ∈ s.releaseBatch.lanes, L.lrun = .idle := by
  intro L hL
  rw [State.releaseBatch_lanes] at hL
  obtain ⟨l, M, hM, rfl⟩ := mem_mapLanesFrom.mp hL
  have hb := r.batch hwait l M hM
  by_cases hl : l < s.cfg.workers
  · simp [hl]
  · simpa [hl] using hb

/-- The result of the index in work is committed (R249). -/
theorem Inv.commit {s : State} (h : Inv s) (hwait : s.coord.cst = .wait) : Inv (s.commit s.batchMatches) := by
  have hbusy : s.coord.cst ≠ .idle := by simp [hwait]
  have r := h.run hbusy
  obtain ⟨hlt, hskip⟩ := r.inWork (by simp [hwait])
  have hidx : s.coord.cidx.toNat < 256 := Nat.lt_of_lt_of_le hlt s.cfg.keyBitCount_le
  have hfresh := r.not_done hwait
  obtain ⟨hpnb, hnpnb⟩ :
      mapBit s.res.pnb s.coord.cidx.toNat = false ∧ mapBit s.res.npnb s.coord.cidx.toNat = false := by
    have hclass := (h.classified s.coord.cidx.toNat).1
    simpa [hfresh] using hclass
  have hbelow : s.completedBelow = s.coord.cidx.toNat := by simp [State.completedBelow, hwait]
  exact { h with
    lanes := by simpa using h.lanes
    classified := fun j => by
      rw [State.commit_res, ResultRegs.mapBit_donemap_commit _ _ _ _ hidx, ResultRegs.mapBit_pnb_commit _ _ _ _ hidx,
        ResultRegs.mapBit_npnb_commit _ _ _ _ hidx]
      by_cases hj : j = s.coord.cidx.toNat
      · simp [hj, hpnb, hnpnb]
      · simpa [hj] using h.classified j
    untouched := fun j hj => by
      rw [State.commit_res, ResultRegs.mapBit_donemap_commit _ _ _ _ hidx] at hj
      obtain ⟨hold, hne⟩ : mapBit s.res.donemap j = false ∧ j.val ≠ s.coord.cidx.toNat := by simpa using hj
      rw [State.commit_res, ResultRegs.matchCounts_commit, ResultRegs.bias_commit, if_neg hne, if_neg hne]
      exact h.untouched j hold
    idle := nofun
    run := fun _ => { r with
      legal := by simpa using r.legal
      inWork := fun _ => ⟨hlt, hskip⟩
      donemap := fun j => by
        rw [State.commit_res, ResultRegs.mapBit_donemap_commit _ _ _ _ hidx, r.donemap, hbelow]
        by_cases hj : j = s.coord.cidx.toNat
        · simp [State.completedBelow, hj, hskip]
        · have hlt : j < s.coord.cidx.toNat + 1 ↔ j < s.coord.cidx.toNat := by omega
          simp [State.completedBelow, hj, hlt]
      results := fun j hj => by
        rw [State.commit_res, ResultRegs.mapBit_donemap_commit _ _ _ _ hidx] at hj
        rw [State.commit_res, ResultRegs.matchCounts_commit, ResultRegs.bias_commit,
          ResultRegs.mapBit_pnb_commit _ _ _ _ hidx]
        by_cases he : j.val = s.coord.cidx.toNat
        · rw [if_pos he, if_pos he]
          exact ⟨r.batchMatches_le hwait, rfl, by simp [he, hpnb]⟩
        · rw [if_neg he, if_neg he]
          obtain ⟨hcount, hbias, hclass⟩ := r.results j (by simpa [he] using hj)
          exact ⟨hcount, hbias, by simpa [he] using hclass⟩
      quiet := fun _ => r.releaseBatch_idle hwait
      target := nofun
      batch := nofun } }

theorem Inv.join {s t : State} (h : Inv s) (hwait : s.coord.cst = .wait) (hx : s.join = .next t) : Inv t := by
  have r := h.run (by simp [hwait])
  have hfresh := r.not_done hwait
  have hmatches : s.batchMatches = s.countFaults.batchMatches := by
    simp [State.batchMatches, State.batchLanes]
  unfold State.join at hx
  split at hx
  next => cases hx
  next =>
    rw [hfresh, hmatches] at hx
    cases hx
    exact h.countFaults.commit (by simpa using hwait)

theorem Inv.coordinatorStep {s t : State} (h : Inv s) (hx : coordinatorStep s = .next t) : Inv t := by
  unfold Machine.coordinatorStep at hx
  split at hx
  next => cases hx; exact h
  next hscan => cases hx; exact h.scan hscan
  next hwait =>
    split at hx
    next => exact h.join hwait hx
    next => cases hx; exact h
  next hprog => cases hx; exact h.countProgress hprog

end Sys2Proof.Machine
end

section
/-! ## The invariant under the host's accesses, START and the reset event (R65 to R72, R241 to R244, R340) -/

namespace Sys2Proof.Machine

theorem threshold_default : thresholdOutOfRange defaultThreshold = false := by decide

/-- The threshold in effect is never out of range (R243). -/
theorem threshold_effective (t : Word64) : thresholdOutOfRange (effectiveThreshold t) = false := by
  unfold effectiveThreshold
  split
  next => exact threshold_default
  next h => simpa using h

/-! ### Idle states -/

/-- With the engine idle, the lanes may change, as long as there are as many and none is at work. -/
theorem Inv.withLanes {s : State} (h : Inv s) (hidle : s.coord.cst = .idle) {ls : List Lane}
    (hlen : ls.length = s.lanes.length) (hls : ∀ L ∈ ls, L.lrun = .idle) : Inv { s with lanes := ls } :=
  { h with
    lanes := by simpa [hlen] using h.lanes
    idle := fun _ => hls
    run := fun hb => absurd hidle hb }

/-- With the engine idle, the status may take the code of a refused START or of a fault on the UOP port, or be cleared. -/
theorem Inv.withStatus {s : State} (h : Inv s) (hidle : s.coord.cst = .idle) {st : StatusReg}
    (hcodes : (st.uoperr = true ↔ st.uopcode ≠ none) ∧ (st.cfgerr = true ↔ st.cfgcode ≠ none))
    (herrors : st.wkerr = true → s.res.wkerrcnt ≠ 0) (hfatal : st.fatal = false) : Inv { s with status := st } :=
  { h with
    codes := hcodes
    errors := herrors
    neverFatal := hfatal
    run := fun hb => absurd hidle hb }

theorem Inv.clearStatus {s : State} (h : Inv s) (hidle : s.coord.cst = .idle) : Inv s.clearStatus :=
  h.withStatus hidle (by decide) nofun rfl

theorem Inv.refuseStart {s : State} (h : Inv s) (hidle : s.coord.cst = .idle) (e : StartError) : Inv (s.refuseStart e) :=
  h.withStatus hidle ⟨h.codes.1, by simp⟩ h.errors h.neverFatal

theorem Inv.uopFault {s : State} (h : Inv s) (hidle : s.coord.cst = .idle) (f : LaneFault) :
    Inv { s with status := s.status.uopFault f } :=
  h.withStatus hidle ⟨by simp [StatusReg.uopFault], h.codes.2⟩ h.errors h.neverFatal

/-! ### START (R241 to R244) -/

theorem Inv.acceptStart {s : State} (h : Inv s) (hlegal : startRefusal s.cfg s.lanes.length = none) :
    Inv s.acceptStart where
  lanes := by simpa using h.lanes
  reserved := h.reserved
  classified := fun idx => by simp [ResultRegs.clear]
  untouched := fun idx _ => by simp [ResultRegs.clear]
  codes := by simp [StatusReg.clear]
  errors := nofun
  neverFatal := rfl
  threshold := threshold_effective _
  idle := nofun
  run := fun _ => {
    legal := by simpa using hlegal
    running := ⟨rfl, rfl, rfl⟩
    cidx := Nat.zero_le _
    inWork := fun hne => absurd rfl hne
    donemap := fun idx => by simp [ResultRegs.clear, State.completedBelow]
    progress := rfl
    results := fun idx hd => by simp [ResultRegs.clear] at hd
    quiet := fun _ L hL => by
      obtain ⟨l, M, -, rfl⟩ := mem_mapLanesFrom.mp hL
      rfl
    target := nofun
    batch := nofun }

theorem Inv.start {s : State} (h : Inv s) (hidle : s.coord.cst = .idle) : Inv s.start := by
  unfold State.start
  split
  next e _ => exact h.refuseStart hidle e
  next hlegal => exact h.acceptStart hlegal

theorem Inv.writeCtrl {s : State} (h : Inv s) (hidle : s.coord.cst = .idle) (v : Word) : Inv (s.writeCtrl v) := by
  unfold State.writeCtrl
  split
  next => exact h.start hidle
  next =>
    split
    next => exact h.clearStatus hidle
    next => exact h

/-! ### Register writes (R65 to R71) -/

theorem toNat_and_lt {v mask : Word} {n : Nat} (h : mask.toNat < n) : (v &&& mask).toNat < n := by
  rw [BitVec.toNat_and]
  exact Nat.lt_of_le_of_lt Nat.and_le_right h

/-- A configuration write leaves the reserved bits 0 (R66). -/
theorem Inv.writeConfig {s : State} (h : Inv s) (hidle : s.coord.cst = .idle) (m : MapReg) (v : Word) :
    Inv { s with cfg := s.cfg.write m v } := by
  obtain ⟨hmode, hrounds, hnw, htarget⟩ := h.reserved
  refine { h with reserved := ?_, run := fun hb => absurd hidle hb }
  cases m with
  | mode => exact ⟨toNat_and_lt (by decide), hrounds, hnw, htarget⟩
  | rounds => exact ⟨hmode, toNat_and_lt (by decide), hnw, htarget⟩
  | nw => exact ⟨hmode, hrounds, toNat_and_lt (by decide), htarget⟩
  | target => exact ⟨hmode, hrounds, hnw, toNat_and_lt (by decide)⟩
  | _ => exact ⟨hmode, hrounds, hnw, htarget⟩

theorem Lane.writeWindow_lrun (L : Lane) (m : MapReg) (v : Word) : (L.writeWindow m v).lrun = L.lrun := by
  cases m <;> rfl

theorem Inv.onLane0 {s : State} (h : Inv s) (hidle : s.coord.cst = .idle) {f : Lane → Lane}
    (hf : ∀ L, (f L).lrun = L.lrun) : Inv (s.onLane0 f) := by
  have hlanes := h.idle hidle
  unfold State.onLane0
  split
  next L rest hs =>
    rw [hs] at hlanes
    refine h.withLanes hidle (by simp [hs]) fun M hM => ?_
    rcases List.mem_cons.mp hM with rfl | hM
    · exact (hf L).trans (hlanes L List.mem_cons_self)
    · exact hlanes M (List.mem_cons_of_mem _ hM)
  next => exact h

/-! ### The UOP port (R72, R307) -/

/-- A micro-op on the UOP port of an idle engine leaves lane 0 idle, whichever way it ends. -/
theorem Inv.applyUop {s : State} (h : Inv s) (hidle : s.coord.cst = .idle) (hq : s.inp.issue = .uopPort) {e : Ending}
    (he : (e.lane .uopPort).lrun = .idle) : Inv (e.apply s) := by
  have hput : Inv (s.putLane 0 (e.lane .uopPort)) := by
    refine h.withLanes hidle (by simp) fun M hM => ?_
    rcases List.mem_or_eq_of_mem_set hM with hM | rfl
    · exact h.idle hidle M hM
    · exact he
  rcases e.apply_uopPort hq with ha | ⟨f, ha⟩
  · exact ha ▸ hput
  · exact ha ▸ hput.uopFault hidle f

theorem Inv.writeUop {s t : State} (h : Inv s) (hidle : s.coord.cst = .idle) {v : Word} (hx : s.writeUop v = .next t) :
    Inv t := by
  have hlane : ∃ L, s.lanes[0]? = some L := ⟨_, List.getElem?_eq_getElem h.lanes.1⟩
  obtain ⟨L, hL⟩ := hlane
  have hrun : L.lrun = .idle := h.idle hidle L (List.mem_of_getElem? hL)
  have hsees : Sees (s.issuedFrom .uopPort) s.cfg .uopPort L := ⟨rfl, rfl, hL⟩
  have hs : Inv (s.issuedFrom .uopPort) := h.withInp _
  unfold State.writeUop runWord at hx
  split at hx
  next i _ =>
    obtain ⟨e, he, hexec⟩ := exec_ending i s.cfg .uopPort L
    rw [hexec _ hsees] at hx
    cases hx
    exact hs.applyUop hidle rfl (he.lane_uopPort.2.1.trans hrun)
  next =>
    rw [onLane_of_issuedOn hsees.lane] at hx
    cases hx
    exact hs.applyUop (e := .faulted L .illegalUop) hidle rfl hrun

/-! ### The host's turn (R64 to R72) -/

/-- What a register write can do while the engine is idle: `CTRL`, `UOP`, the window, the configuration, or nothing. -/
theorem writeRegIdle_cases (s : State) (m : MapReg) (v : Word) :
    writeRegIdle s m v = .next (s.writeCtrl v) ∨ writeRegIdle s m v = s.writeUop v ∨
    writeRegIdle s m v = .next (s.onLane0 fun L => L.writeWindow m v) ∨
    writeRegIdle s m v = .next { s with cfg := s.cfg.write m v } ∨ writeRegIdle s m v = .next s := by
  cases m <;> simp [writeRegIdle]

theorem Inv.regWrite {s t : State} (h : Inv s) {a : BitVec 11} {v : Word} (hx : regWrite s a v = .next t) : Inv t := by
  unfold Machine.regWrite at hx
  split at hx
  next => cases hx; exact h
  next hbusy =>
    have hidle : s.coord.cst = .idle := s.busy_eq_false_iff.mp (by simpa using hbusy)
    rcases writeRegIdle_cases s (regAt a) v with hw | hw | hw | hw | hw <;> rw [hw] at hx
    · cases hx
      exact h.writeCtrl hidle v
    · exact h.writeUop hidle hx
    · cases hx
      exact h.onLane0 hidle fun L => L.writeWindow_lrun _ v
    · cases hx
      exact h.writeConfig hidle _ v
    · cases hx
      exact h

theorem Inv.takeAccess {s : State} (h : Inv s) : Inv s.takeAccess.2 := by
  unfold State.takeAccess
  split
  next => exact h.withInp _
  next => exact h

theorem Inv.hostAccess {s t : State} (h : Inv s) {a : HostAccess} (hx : hostAccess s a = .next t) : Inv t := by
  match a, hx with
  | .reg (.read _), rfl => exact h.withInp _
  | .reg (.write _ _), hx => exact h.regWrite hx

theorem Inv.hostStep {s t : State} (h : Inv s) (hx : hostStep s = .next t) : Inv t := by
  have htake := h.takeAccess
  unfold Machine.hostStep at hx
  split at hx
  next a u hu => exact Inv.hostAccess (by simpa [hu] using htake) hx
  next u hu =>
    cases hx
    simpa [hu] using htake

/-! ### Reset (R340) -/

/-- A state with the values of reset and 1 to 256 idle lanes meets the invariant. -/
theorem inv_of_reset {s : State} (hlanes : 1 ≤ s.lanes.length ∧ s.lanes.length ≤ 256)
    (hidle : ∀ L ∈ s.lanes, L.lrun = .idle) (hcfg : s.cfg = CfgRegs.reset s.lanes.length)
    (hstatus : s.status = StatusReg.clear) (hres : s.res = ResultRegs.clear) (hcoord : s.coord = Coord.reset) : Inv s where
  lanes := hlanes
  reserved := by
    rw [hcfg]
    refine ⟨by simp [CfgRegs.reset], by simp [CfgRegs.reset], ?_, by simp [CfgRegs.reset]⟩
    simp only [CfgRegs.reset, BitVec.toNat_ofNat]
    omega
  classified := fun idx => by simp [hres, ResultRegs.clear]
  untouched := fun idx _ => by simp [hres, ResultRegs.clear]
  codes := by simp [hstatus, StatusReg.clear]
  errors := by simp [hstatus, StatusReg.clear]
  neverFatal := by rw [hstatus]; rfl
  threshold := by rw [hcoord]; exact threshold_default
  idle := fun _ => hidle
  run := fun hb => absurd (by rw [hcoord]; rfl) hb

theorem Inv.resetEvent {s : State} (h : Inv s) : Inv s.resetEvent := by
  refine inv_of_reset (by simpa using h.lanes) (fun L hL => ?_) (by simp) rfl rfl rfl
  obtain ⟨l, M, -, rfl⟩ := mem_mapLanesFrom.mp hL
  rfl

/-! ### Every step -/

theorem Inv.agentStep {s t : State} (h : Inv s) {a : Agent} (hx : agentStep a s = .next t) : Inv t := by
  cases a with
  | host => exact h.hostStep hx
  | coordinator => exact h.coordinatorStep hx
  | lane l => exact h.laneStep hx
  | reset =>
    cases hx
    exact h.resetEvent

/-- Settles O55: each agent's step keeps the invariant. -/
theorem invariantKeptByEveryStep : Obligations.InvariantKeptByEveryStep := by
  unfold Obligations.InvariantKeptByEveryStep
  intro s t h hx
  exact h.takeTurn.agentStep hx

end Sys2Proof.Machine
end

section
/-! ## The register map: addresses and registers (R61, R66) -/

namespace Sys2Proof.Machine

/-- Where a register stands in the map (R61); of the reserved addresses, the first above the map. -/
def MapReg.offset : MapReg → Nat
  | .ctrl => 0x000
  | .status => 0x001
  | .mode => 0x002
  | .rounds => 0x003
  | .nw => 0x004
  | .sLo => 0x005
  | .sHi => 0x006
  | .thrLo => 0x007
  | .thrHi => 0x008
  | .progress => 0x009
  | .target => 0x00A
  | .uop => 0x00B
  | .wkerrcnt => 0x00C
  | .idm w => 0x010 + w
  | .omsk w => 0x020 + w
  | .skip k => 0x030 + k
  | .pnb k => 0x038 + k
  | .npnb k => 0x040 + k
  | .donemap k => 0x048 + k
  | .ivfix j => 0x050 + j
  | .l0sr r i => 0x100 + 16 * r.id.toNat + i
  | .l0k j => 0x190 + j
  | .l0flags => 0x198
  | .l0mcLo => 0x199
  | .l0mcHi => 0x19A
  | .l0tcLo => 0x19B
  | .l0tcHi => 0x19C
  | .l0stat => 0x19D
  | .biasLo idx => 0x200 + 2 * idx
  | .biasHi idx => 0x201 + 2 * idx
  | .matchesLo idx => 0x400 + 2 * idx
  | .matchesHi idx => 0x401 + 2 * idx
  | .reserved => 0x600

/-- The word address of a register. -/
def MapReg.address (m : MapReg) : BitVec 11 := BitVec.ofNat 11 m.offset

theorem SReg.id_toNat_le (r : SReg) : r.id.toNat ≤ 8 := by cases r <;> decide

theorem MapReg.offset_le (m : MapReg) : m.offset ≤ 0x600 := by
  cases m with
  | l0sr r i =>
    have hr := SReg.id_toNat_le r
    simp only [MapReg.offset]
    omega
  | _ => simp only [MapReg.offset]; omega

theorem MapReg.toNat_address (m : MapReg) : m.address.toNat = m.offset := by
  have h := m.offset_le
  rw [MapReg.address, BitVec.toNat_ofNat]
  omega

/-- The index of a word of an array that starts at a multiple of its length. -/
theorem ofNat_base_add {n : Nat} [NeZero n] (base : Nat) (hbase : base % n = 0) (i : Fin n) :
    Fin.ofNat n (base + i) = i := by
  apply Fin.ext
  rw [Fin.val_ofNat, Nat.add_mod, hbase, Nat.zero_add, Nat.mod_mod, Nat.mod_eq_of_lt i.isLt]

theorem mapWindow_word (r : SReg) (i : Fin 16) : mapWindow (16 * r.id.toNat + i) = .l0sr r i := by
  have hdiv : (16 * r.id.toNat + i) / 16 = r.id.toNat := by omega
  have hreg : SReg.ofId r.id.toNat = some r := by cases r <;> rfl
  rw [mapWindow, hdiv, hreg, ofNat_base_add _ (Nat.mul_mod_right 16 _) i]

theorem mapPair_lo (lo hi : Fin 256 → MapReg) (idx : Fin 256) : mapPair lo hi (2 * idx) = lo idx := by
  have hdiv : 2 * idx.val / 2 = idx.val := by omega
  rw [mapPair, if_pos (by omega), hdiv]
  exact congrArg lo (Fin.ext (Nat.mod_eq_of_lt idx.isLt))

theorem mapPair_hi (lo hi : Fin 256 → MapReg) (idx : Fin 256) : mapPair lo hi (2 * idx + 1) = hi idx := by
  have hdiv : (2 * idx.val + 1) / 2 = idx.val := by omega
  rw [mapPair, if_neg (by omega), hdiv]
  exact congrArg hi (Fin.ext (Nat.mod_eq_of_lt idx.isLt))

/-- The map shows every register at its address (R61). -/
theorem regAt_address (m : MapReg) : regAt m.address = m := by
  have hn := m.toNat_address
  unfold regAt
  cases m with
  | idm w | omsk w | skip w | pnb w | npnb w | donemap w | ivfix w | l0k w =>
    simp only [MapReg.offset] at hn
    simp (disch := omega) only [hn, if_pos, if_neg, ofNat_base_add]
  | l0sr r i =>
    have hr := SReg.id_toNat_le r
    simp only [MapReg.offset] at hn
    have hsub : 0x100 + 16 * r.id.toNat + i - 0x100 = 16 * r.id.toNat + i := by omega
    simp (disch := omega) only [hn, if_pos, if_neg, hsub, mapWindow_word]
  | biasLo idx | matchesLo idx =>
    simp only [MapReg.offset] at hn
    simp (disch := omega) only [hn, if_pos, if_neg, Nat.add_sub_cancel_left, mapPair_lo]
  | biasHi idx =>
    simp only [MapReg.offset] at hn
    have hsub : 0x201 + 2 * idx.val - 0x200 = 2 * idx + 1 := by omega
    simp (disch := omega) only [hn, if_pos, if_neg, hsub, mapPair_hi]
  | matchesHi idx =>
    simp only [MapReg.offset] at hn
    have hsub : 0x401 + 2 * idx.val - 0x400 = 2 * idx + 1 := by omega
    simp (disch := omega) only [hn, if_pos, if_neg, hsub, mapPair_hi]
  | l0flags | l0mcLo | l0mcHi | l0tcLo | l0tcHi | l0stat =>
    simp only [MapReg.offset] at hn
    simp (disch := omega) only [hn, if_pos, if_neg]
    rfl
  | _ => rfl

/-- `m` stands at `a`, or `a` is reserved and nothing does. -/
def StandsAt (a : BitVec 11) (m : MapReg) : Prop :=
  m.offset = a.toNat ∨ m = .reserved ∧ reservedAddress a = true

theorem standsAt_reserved {a : BitVec 11}
    (h : 0x00D ≤ a.toNat ∧ a.toNat ≤ 0x00F ∨ 0x054 ≤ a.toNat ∧ a.toNat ≤ 0x0FF ∨
      0x19E ≤ a.toNat ∧ a.toNat ≤ 0x1FF ∨ 0x600 ≤ a.toNat) : StandsAt a .reserved :=
  .inr ⟨rfl, by simpa [reservedAddress, or_assoc] using h⟩

theorem standsAt_mapLow {a : BitVec 11} (h : a.toNat < 0x010) : StandsAt a (mapLow a.toNat) := by
  have hlow : ∀ n < 0x010, (mapLow n).offset = n ∨ mapLow n = .reserved ∧ 0x00D ≤ n := by decide
  rcases hlow _ h with hn | ⟨hres, hn⟩
  · exact .inl hn
  · exact hres ▸ standsAt_reserved (.inl ⟨hn, by omega⟩)

theorem standsAt_mapLane0 {a : BitVec 11} (h : 0x198 ≤ a.toNat) (h' : a.toNat < 0x200) :
    StandsAt a (mapLane0 (a.toNat - 0x198)) := by
  have hlane0 : ∀ n < 0x068, (mapLane0 n).offset = 0x198 + n ∨ mapLane0 n = .reserved ∧ 6 ≤ n := by decide
  rcases hlane0 (a.toNat - 0x198) (by omega) with hn | ⟨hres, hn⟩
  · exact .inl (by omega)
  · exact hres ▸ standsAt_reserved (by omega)

/-- An array of registers, from an address that is a multiple of its length. -/
theorem standsAt_array {a : BitVec 11} {n : Nat} [NeZero n] {mk : Fin n → MapReg} {base : Nat}
    (hmk : ∀ i, (mk i).offset = base + i) (hbase : base % n = 0) (h : base ≤ a.toNat) (h' : a.toNat < base + n) :
    StandsAt a (mk (Fin.ofNat n a.toNat)) := by
  obtain ⟨i, hi⟩ := Nat.exists_eq_add_of_le h
  have hidx : Fin.ofNat n a.toNat = ⟨i, by omega⟩ := by rw [hi]; exact ofNat_base_add base hbase ⟨i, by omega⟩
  exact .inl (by rw [hidx, hmk, hi])

theorem SReg.exists_ofId {n : Nat} (h : n < 9) : ∃ r, SReg.ofId n = some r ∧ r.id.toNat = n := by
  interval_cases n <;> exact ⟨_, rfl, rfl⟩

theorem standsAt_mapWindow {a : BitVec 11} (h : 0x100 ≤ a.toNat) (h' : a.toNat < 0x190) :
    StandsAt a (mapWindow (a.toNat - 0x100)) := by
  obtain ⟨r, hr, hid⟩ := SReg.exists_ofId (n := (a.toNat - 0x100) / 16) (by omega)
  refine .inl ?_
  simp only [mapWindow, hr, MapReg.offset, Fin.val_ofNat]
  omega

theorem standsAt_mapPair {a : BitVec 11} {lo hi : Fin 256 → MapReg} {base : Nat}
    (hlo : ∀ idx, (lo idx).offset = base + 2 * idx) (hhi : ∀ idx, (hi idx).offset = base + 1 + 2 * idx)
    (h : base ≤ a.toNat) (h' : a.toNat < base + 0x200) : StandsAt a (mapPair lo hi (a.toNat - base)) := by
  refine .inl ?_
  unfold mapPair
  split
  next => rw [hlo, Fin.val_ofNat]; omega
  next => rw [hhi, Fin.val_ofNat]; omega

theorem StandsAt.ite {a : BitVec 11} {c : Prop} [Decidable c] {m m' : MapReg} :
    (c → StandsAt a m) → (¬ c → StandsAt a m') → StandsAt a (if c then m else m') := iteInduction

/-- Every address shows the register that stands there, or is reserved (R61, R66). -/
theorem standsAt_regAt (a : BitVec 11) : StandsAt a (regAt a) := by
  unfold regAt
  refine .ite standsAt_mapLow fun _ => ?_
  refine .ite (fun _ => standsAt_array (fun _ => rfl) rfl (by omega) (by omega)) fun _ => ?_
  refine .ite (fun _ => standsAt_array (fun _ => rfl) rfl (by omega) (by omega)) fun _ => ?_
  refine .ite (fun _ => standsAt_array (fun _ => rfl) rfl (by omega) (by omega)) fun _ => ?_
  refine .ite (fun _ => standsAt_array (fun _ => rfl) rfl (by omega) (by omega)) fun _ => ?_
  refine .ite (fun _ => standsAt_array (fun _ => rfl) rfl (by omega) (by omega)) fun _ => ?_
  refine .ite (fun _ => standsAt_array (fun _ => rfl) rfl (by omega) (by omega)) fun _ => ?_
  refine .ite (fun _ => standsAt_array (fun _ => rfl) rfl (by omega) (by omega)) fun _ => ?_
  refine .ite (fun _ => standsAt_reserved (by omega)) fun _ => ?_
  refine .ite (fun _ => standsAt_mapWindow (by omega) (by omega)) fun _ => ?_
  refine .ite (fun _ => standsAt_array (fun _ => rfl) rfl (by omega) (by omega)) fun _ => ?_
  refine .ite (fun _ => standsAt_mapLane0 (by omega) (by omega)) fun _ => ?_
  refine .ite (fun _ => standsAt_mapPair (fun _ => rfl) (fun _ => rfl) (by omega) (by omega)) fun _ => ?_
  refine .ite (fun _ => standsAt_mapPair (fun _ => rfl) (fun _ => rfl) (by omega) (by omega)) fun _ => ?_
  exact standsAt_reserved (by omega)

/-- Two addresses that show the same register are the same, but for the reserved ones. -/
theorem regAt_injective {a b : BitVec 11} (hres : regAt a ≠ .reserved) (h : regAt b = regAt a) : b = a := by
  have ha := (standsAt_regAt a).resolve_right fun hr => hres hr.1
  have hb := (standsAt_regAt b).resolve_right fun hr => hres (h.symm.trans hr.1)
  exact BitVec.eq_of_toNat_eq (hb.symm.trans ((congrArg MapReg.offset h).trans ha))

/-! ### Which registers are reserved, read-only, configuration and window -/

theorem regAt_of_reservedAddress {a : BitVec 11} (h : reservedAddress a = true) : regAt a = .reserved := by
  have hcases : 0x00D ≤ a.toNat ∧ a.toNat ≤ 0x00F ∨ 0x054 ≤ a.toNat ∧ a.toNat ≤ 0x0FF ∨
      0x19E ≤ a.toNat ∧ a.toNat ≤ 0x1FF ∨ 0x600 ≤ a.toNat := by
    simpa [reservedAddress, or_assoc] using h
  rcases standsAt_regAt a with hn | ⟨hres, -⟩
  · cases hm : regAt a with
    | reserved => rfl
    | l0sr r i =>
      have hr := SReg.id_toNat_le r
      simp only [hm, MapReg.offset] at hn
      omega
    | _ =>
      simp only [hm, MapReg.offset] at hn
      omega
  · exact hres

/-- The configuration registers, with the bits that are not reserved (R30 to R39). -/
inductive ConfigReg : MapReg → Word → Prop
  | mode : ConfigReg .mode 0x00000007
  | rounds : ConfigReg .rounds 0x0000FFFF
  | nw : ConfigReg .nw 0x000001FF
  | sLo : ConfigReg .sLo 0xFFFFFFFF
  | sHi : ConfigReg .sHi 0xFFFFFFFF
  | thrLo : ConfigReg .thrLo 0xFFFFFFFF
  | thrHi : ConfigReg .thrHi 0xFFFFFFFF
  | target : ConfigReg .target 0x000000FF
  | idm (w : Fin 16) : ConfigReg (.idm w) 0xFFFFFFFF
  | omsk (w : Fin 16) : ConfigReg (.omsk w) 0xFFFFFFFF
  | skip (k : Fin 8) : ConfigReg (.skip k) 0xFFFFFFFF
  | ivfix (j : Fin 4) : ConfigReg (.ivfix j) 0xFFFFFFFF

/-- The writable registers of the lane-0 window, with the bits that are kept (R71). -/
inductive WindowReg : MapReg → Word → Prop
  | l0sr (r : SReg) (i : Fin 16) : WindowReg (.l0sr r i) 0xFFFFFFFF
  | l0k (j : Fin 8) : WindowReg (.l0k j) 0xFFFFFFFF
  | l0flags : WindowReg .l0flags 0x00000003
  | l0mcLo : WindowReg .l0mcLo 0xFFFFFFFF
  | l0mcHi : WindowReg .l0mcHi 0xFFFFFFFF
  | l0tcLo : WindowReg .l0tcLo 0xFFFFFFFF
  | l0tcHi : WindowReg .l0tcHi 0xFFFFFFFF

theorem regAt_of_toNat {a : BitVec 11} {m : MapReg} (h : a.toNat = m.offset) : regAt a = m := by
  have ha : a = m.address := BitVec.eq_of_toNat_eq (h.trans m.toNat_address.symm)
  rw [ha, regAt_address]

/-- If the table entry `o` of an address is a mask, the register there has that mask by `P`. -/
def HasMask (P : MapReg → Word → Prop) (a : BitVec 11) (o : Option Word) : Prop :=
  ∀ mask, o = some mask → P (regAt a) mask

theorem HasMask.ite {P : MapReg → Word → Prop} {a : BitVec 11} {c : Prop} [Decidable c] {o o' : Option Word} :
    (c → HasMask P a o) → (¬ c → HasMask P a o') → HasMask P a (if c then o else o') := iteInduction

theorem HasMask.some {P : MapReg → Word → Prop} {a : BitVec 11} {m : MapReg} {mask : Word} (hm : P m mask)
    (h : a.toNat = m.offset) : HasMask P a (some mask) := by
  rintro _ ⟨⟩
  exact regAt_of_toNat h ▸ hm

theorem HasMask.none {P : MapReg → Word → Prop} {a : BitVec 11} : HasMask P a none := nofun

theorem configReg_of_configMask {a : BitVec 11} {mask : Word} (h : configMask a = some mask) :
    ConfigReg (regAt a) mask := by
  suffices hmask : HasMask ConfigReg a (configMask a) from hmask mask h
  unfold configMask
  refine HasMask.ite (HasMask.some ConfigReg.mode) fun _ => .ite (HasMask.some ConfigReg.rounds) fun _ =>
    .ite (HasMask.some ConfigReg.nw) fun _ =>
    .ite (fun hpair => ?_) fun _ => .ite (HasMask.some ConfigReg.target) fun _ => .ite (fun harray => ?_) fun _ =>
    .ite (fun hiv => .some (.ivfix ⟨a.toNat - 0x050, by omega⟩) (by simp only [MapReg.offset]; omega)) fun _ => .none
  · have hcases : a.toNat = 0x005 ∨ a.toNat = 0x006 ∨ a.toNat = 0x007 ∨ a.toNat = 0x008 := by omega
    rcases hcases with hn | hn | hn | hn
    · exact .some .sLo hn
    · exact .some .sHi hn
    · exact .some .thrLo hn
    · exact .some .thrHi hn
  · by_cases hidm : a.toNat < 0x020
    · exact .some (.idm ⟨a.toNat - 0x010, by omega⟩) (by simp only [MapReg.offset]; omega)
    by_cases homsk : a.toNat < 0x030
    · exact .some (.omsk ⟨a.toNat - 0x020, by omega⟩) (by simp only [MapReg.offset]; omega)
    · exact .some (.skip ⟨a.toNat - 0x030, by omega⟩) (by simp only [MapReg.offset]; omega)

theorem windowReg_of_windowMask {a : BitVec 11} {mask : Word} (h : windowMask a = some mask) :
    WindowReg (regAt a) mask := by
  suffices hmask : HasMask WindowReg a (windowMask a) from hmask mask h
  unfold windowMask
  refine HasMask.ite (fun hwindow => ?_) fun _ => .ite (HasMask.some WindowReg.l0flags) fun _ => .ite (fun hcounters => ?_) fun _ => .none
  · by_cases hsr : a.toNat < 0x190
    · obtain ⟨r, -, hid⟩ := SReg.exists_ofId (n := (a.toNat - 0x100) / 16) (by omega)
      exact .some (.l0sr r ⟨a.toNat % 16, by omega⟩) (by simp only [MapReg.offset, hid]; omega)
    · exact .some (.l0k ⟨a.toNat - 0x190, by omega⟩) (by simp only [MapReg.offset]; omega)
  · have hcases : a.toNat = 0x199 ∨ a.toNat = 0x19A ∨ a.toNat = 0x19B ∨ a.toNat = 0x19C := by omega
    rcases hcases with hn | hn | hn | hn
    · exact .some .l0mcLo hn
    · exact .some .l0mcHi hn
    · exact .some .l0tcLo hn
    · exact .some .l0tcHi hn

/-- What the host cannot write at all: the read-only registers (R61, R66). -/
inductive ReadOnlyReg : MapReg → Prop
  | status : ReadOnlyReg .status
  | progress : ReadOnlyReg .progress
  | wkerrcnt : ReadOnlyReg .wkerrcnt
  | pnb (k : Fin 8) : ReadOnlyReg (.pnb k)
  | npnb (k : Fin 8) : ReadOnlyReg (.npnb k)
  | donemap (k : Fin 8) : ReadOnlyReg (.donemap k)
  | l0stat : ReadOnlyReg .l0stat
  | biasLo (idx : Fin 256) : ReadOnlyReg (.biasLo idx)
  | biasHi (idx : Fin 256) : ReadOnlyReg (.biasHi idx)
  | matchesLo (idx : Fin 256) : ReadOnlyReg (.matchesLo idx)
  | matchesHi (idx : Fin 256) : ReadOnlyReg (.matchesHi idx)

theorem readOnlyReg_of_readOnlyAddress {a : BitVec 11} (h : readOnlyAddress a = true) : ReadOnlyReg (regAt a) := by
  have stands {m : MapReg} (hm : ReadOnlyReg m) (hn : a.toNat = m.offset) : ReadOnlyReg (regAt a) := regAt_of_toNat hn ▸ hm
  have hcases : a.toNat = 0x001 ∨ a.toNat = 0x009 ∨ a.toNat = 0x00C ∨ (0x038 ≤ a.toNat ∧ a.toNat ≤ 0x04F) ∨
      a.toNat = 0x19D ∨ (0x200 ≤ a.toNat ∧ a.toNat ≤ 0x5FF) := by
    simpa [readOnlyAddress, or_assoc] using h
  rcases hcases with hn | hn | hn | hn | hn | hn
  · exact stands .status hn
  · exact stands .progress hn
  · exact stands .wkerrcnt hn
  · by_cases hpnb : a.toNat < 0x040
    · exact stands (.pnb ⟨a.toNat - 0x038, by omega⟩) (by simp only [MapReg.offset]; omega)
    by_cases hnpnb : a.toNat < 0x048
    · exact stands (.npnb ⟨a.toNat - 0x040, by omega⟩) (by simp only [MapReg.offset]; omega)
    · exact stands (.donemap ⟨a.toNat - 0x048, by omega⟩) (by simp only [MapReg.offset]; omega)
  · exact stands .l0stat hn
  · by_cases hbias : a.toNat < 0x400 <;> by_cases hlow : a.toNat % 2 = 0
    · exact stands (.biasLo ⟨(a.toNat - 0x200) / 2, by omega⟩) (by simp only [MapReg.offset]; omega)
    · exact stands (.biasHi ⟨(a.toNat - 0x200) / 2, by omega⟩) (by simp only [MapReg.offset]; omega)
    · exact stands (.matchesLo ⟨(a.toNat - 0x400) / 2, by omega⟩) (by simp only [MapReg.offset]; omega)
    · exact stands (.matchesHi ⟨(a.toNat - 0x400) / 2, by omega⟩) (by simp only [MapReg.offset]; omega)

end Sys2Proof.Machine
end

section
/-! ## Register reads and writes (R61 to R71) -/

namespace Sys2Proof.Machine

/-! ### The bits of the packed words -/

/-- `STATUS` bit by bit (R40): the one-bit fields and the reserved bit 7, `CFGCODE`, `UOPCODE`, reserved bits above. -/
theorem State.getLsbD_statusWord (s : State) (i : Nat) :
    s.statusWord.getLsbD i =
      if i < 8 then
        [s.busy, s.status.done, s.status.cfgerr, s.status.wkerr, s.status.fatal, s.status.thrdef, s.status.uoperr,
          false].getD i false
      else if i < 12 then (StartError.code s.status.cfgcode).getLsbD (i - 8)
      else if i < 16 then (LaneFault.code s.status.uopcode).getLsbD (i - 12)
      else false := by
  change BitVec.getLsbD (w := 16 + 4 + 4 + 1 + 1 + 1 + 1 + 1 + 1 + 1 + 1) _ i = _
  simp only [State.statusWord, BitVec.getLsbD_append, BitVec.getLsbD_zero, Nat.sub_sub]
  by_cases hflags : i < 8
  · interval_cases i <;> simp
  · simp (disch := omega) only [if_neg]
    grind

/-- `L0STAT` bit by bit (R61): `LF`, `LRUN`, reserved bits, the micro-PC, reserved bits above. -/
theorem Lane.getLsbD_statWord (L : Lane) (i : Nat) :
    L.statWord.getLsbD i =
      if i < 4 then (LaneFault.code L.lf).getLsbD i
      else if i < 6 then L.lrun.code.getLsbD (i - 4)
      else if i < 16 then false
      else if i < 28 then L.upc.getLsbD (i - 16)
      else false := by
  change BitVec.getLsbD (w := 4 + 12 + 10 + 2 + 4) _ i = _
  simp only [Lane.statWord, BitVec.getLsbD_append, BitVec.getLsbD_zero, Nat.sub_sub]
  grind

/-- `L0FLAGS` bit by bit (R61). -/
theorem Lane.getLsbD_flagsWord (L : Lane) (i : Nat) :
    L.flagsWord.getLsbD i = if i = 0 then L.fp else if i = 1 then L.bp else false := by
  change BitVec.getLsbD (w := 30 + 1 + 1) _ i = _
  simp only [Lane.flagsWord, BitVec.getLsbD_append, BitVec.getLsbD_zero]
  match i with
  | 0 | 1 => simp
  | _ + 2 => simp

theorem extractLsb'_eq_of_bits {w : Word} {lo n : Nat} {f : BitVec n}
    (h : ∀ j < n, w.getLsbD (lo + j) = f.getLsbD j) : w.extractLsb' lo n = f := by
  apply BitVec.eq_of_getLsbD_eq
  intro j hj
  simp [hj, h j hj]

theorem State.statusWord_cfgcode (s : State) : s.statusWord.extractLsb' 8 4 = StartError.code s.status.cfgcode := by
  refine extractLsb'_eq_of_bits fun j hj => ?_
  rw [s.getLsbD_statusWord]
  simp (disch := omega) only [if_neg, if_pos, Nat.add_sub_cancel_left]

theorem State.statusWord_uopcode (s : State) : s.statusWord.extractLsb' 12 4 = LaneFault.code s.status.uopcode := by
  refine extractLsb'_eq_of_bits fun j hj => ?_
  rw [s.getLsbD_statusWord]
  simp (disch := omega) only [if_neg, if_pos, Nat.add_sub_cancel_left]

theorem Lane.statWord_lf (L : Lane) : L.statWord.extractLsb' 0 4 = LaneFault.code L.lf := by
  refine extractLsb'_eq_of_bits fun j hj => ?_
  rw [L.getLsbD_statWord, Nat.zero_add, if_pos hj]

theorem Lane.statWord_lrun (L : Lane) : L.statWord.extractLsb' 4 2 = L.lrun.code := by
  refine extractLsb'_eq_of_bits fun j hj => ?_
  rw [L.getLsbD_statWord]
  simp (disch := omega) only [if_neg, if_pos, Nat.add_sub_cancel_left]

theorem Lane.statWord_upc (L : Lane) : L.statWord.extractLsb' 16 12 = L.upc := by
  refine extractLsb'_eq_of_bits fun j hj => ?_
  rw [L.getLsbD_statWord]
  simp (disch := omega) only [if_neg, if_pos, Nat.add_sub_cancel_left]

theorem and_eq_zero_of_disjoint {x mask : Word} (h : ∀ i < 32, mask.getLsbD i = true → x.getLsbD i = false) :
    x &&& mask = 0 := by
  apply BitVec.eq_of_getLsbD_eq
  intro i hi
  have hbit := h i hi
  cases hm : mask.getLsbD i with
  | false => simp [hm]
  | true => simp [hbit hm]

theorem State.statusWord_reserved (s : State) : s.statusWord &&& 0xFFFF0080 = 0 := by
  have hmask : ∀ i < 32, (0xFFFF0080 : Word).getLsbD i = true → i = 7 ∨ 16 ≤ i := by decide
  refine and_eq_zero_of_disjoint fun i hi hbit => ?_
  rw [s.getLsbD_statusWord]
  rcases hmask i hi hbit with rfl | h16
  · rfl
  · simp (disch := omega) only [if_neg]

theorem Lane.statWord_reserved (L : Lane) : L.statWord &&& 0xF000FFC0 = 0 := by
  have hmask : ∀ i < 32, (0xF000FFC0 : Word).getLsbD i = true → 6 ≤ i ∧ i < 16 ∨ 28 ≤ i := by decide
  refine and_eq_zero_of_disjoint fun i hi hbit => ?_
  rw [L.getLsbD_statWord]
  rcases hmask i hi hbit with ⟨h6, h16⟩ | h28
  · simp (disch := omega) only [if_neg, if_pos]
  · simp (disch := omega) only [if_neg]

theorem Lane.flagsWord_reserved (L : Lane) : L.flagsWord &&& 0xFFFFFFFC = 0 := by
  have hmask : ∀ i < 32, (0xFFFFFFFC : Word).getLsbD i = true → 2 ≤ i := by decide
  refine and_eq_zero_of_disjoint fun i hi hbit => ?_
  have h2 := hmask i hi hbit
  rw [L.getLsbD_flagsWord]
  simp (disch := omega) only [if_neg]

theorem State.statusWord_clearStatus {s : State} (hidle : s.coord.cst = .idle) : s.clearStatus.statusWord = 0 := by
  have hbusy : s.clearStatus.busy = false := s.clearStatus.busy_eq_false_iff.mpr hidle
  simp only [State.statusWord, hbusy, State.clearStatus_status]
  decide

/-! ### Halves of a 64-bit quantity, words of an array, masks -/

theorem lowWord_withLowWord (v : Word64) (w : Word) : lowWord (withLowWord v w) = w :=
  BitVec.extractLsb'_append_eq_right

theorem highWord_withLowWord (v : Word64) (w : Word) : highWord (withLowWord v w) = highWord v :=
  BitVec.extractLsb'_append_eq_left

theorem lowWord_withHighWord (v : Word64) (w : Word) : lowWord (withHighWord v w) = lowWord v :=
  BitVec.extractLsb'_append_eq_right

theorem highWord_withHighWord (v : Word64) (w : Word) : highWord (withHighWord v w) = w :=
  BitVec.extractLsb'_append_eq_left

theorem getElem_set_fin_ne {n : Nat} (ws : Vector Word n) {i j : Fin n} (h : j ≠ i) (v : Word) :
    (ws.set i v)[j] = ws[j] :=
  Vector.getElem_set_ne _ _ fun e => h (Fin.ext e.symm)

theorem and_fullMask (v : Word) : v &&& 0xFFFFFFFF = v := BitVec.and_allOnes

/-- A lane whose flags are bits 0 and 1 of a word shows these two bits of it in `L0FLAGS`. -/
theorem Lane.flagsWord_eq_and {L : Lane} {v : Word} (hfp : L.fp = getBit v 0) (hbp : L.bp = getBit v 1) :
    L.flagsWord = v &&& 0x00000003 := by
  have hmask : ∀ i < 32, (0x00000003 : Word).getLsbD i = if i = 0 then true else if i = 1 then true else false := by decide
  apply BitVec.eq_of_getLsbD_eq
  intro i hi
  rw [L.getLsbD_flagsWord, BitVec.getLsbD_and, hmask i hi, hfp, hbp]
  split_ifs with h0 h1 <;> simp [getBit, *]

/-! ### Configuration registers -/

/-- What a configuration register holds; 0 for the others. -/
def CfgRegs.word (c : CfgRegs) : MapReg → Word
  | .mode => c.mode
  | .rounds => c.rounds
  | .nw => c.nw
  | .sLo => lowWord c.trials
  | .sHi => highWord c.trials
  | .thrLo => lowWord c.thr
  | .thrHi => highWord c.thr
  | .target => c.target
  | .idm w => c.idm[w]
  | .omsk w => c.omsk[w]
  | .skip k => c.skip[k]
  | .ivfix j => c.ivfix[j]
  | _ => 0

section
variable {m : MapReg} {mask : Word}

/-- A configuration register is read from the configuration alone, busy or not (R70). -/
theorem ConfigReg.readReg (h : ConfigReg m mask) (s : State) : readReg s m = s.cfg.word m := by
  cases h <;> rfl

theorem ConfigReg.writeRegIdle (h : ConfigReg m mask) (s : State) (v : Word) :
    writeRegIdle s m v = .next { s with cfg := s.cfg.write m v } := by
  cases h <;> rfl

theorem ConfigReg.ne_reserved (h : ConfigReg m mask) : m ≠ .reserved := by
  rintro rfl
  cases h

theorem ConfigReg.word_write (h : ConfigReg m mask) (c : CfgRegs) (v : Word) : (c.write m v).word m = v &&& mask := by
  cases h with
  | mode | rounds | nw | target => rfl
  | sLo | thrLo => exact (lowWord_withLowWord _ _).trans (and_fullMask v).symm
  | sHi | thrHi => exact (highWord_withHighWord _ _).trans (and_fullMask v).symm
  | idm i | omsk i | skip i | ivfix i => exact (Vector.getElem_set_self _).trans (and_fullMask v).symm

/-- A configuration register is read back masked to its named fields (R65, R66). -/
theorem ConfigReg.readReg_write (h : ConfigReg m mask) (s : State) (v : Word) :
    Machine.readReg { s with cfg := s.cfg.write m v } m = v &&& mask :=
  (h.readReg _).trans (h.word_write s.cfg v)

end

/-- A configuration write leaves every other configuration register as it was. -/
theorem CfgRegs.word_write_ne (c : CfgRegs) {m q : MapReg} (v : Word) (h : q ≠ m) :
    (c.write m v).word q = c.word q := by
  cases m with
  | mode => cases q with
    | mode => exact absurd rfl h
    | _ => rfl
  | rounds => cases q with
    | rounds => exact absurd rfl h
    | _ => rfl
  | nw => cases q with
    | nw => exact absurd rfl h
    | _ => rfl
  | target => cases q with
    | target => exact absurd rfl h
    | _ => rfl
  | sLo => cases q with
    | sLo => exact absurd rfl h
    | sHi => exact highWord_withLowWord _ _
    | _ => rfl
  | sHi => cases q with
    | sHi => exact absurd rfl h
    | sLo => exact lowWord_withHighWord _ _
    | _ => rfl
  | thrLo => cases q with
    | thrLo => exact absurd rfl h
    | thrHi => exact highWord_withLowWord _ _
    | _ => rfl
  | thrHi => cases q with
    | thrHi => exact absurd rfl h
    | thrLo => exact lowWord_withHighWord _ _
    | _ => rfl
  | idm w => cases q with
    | idm w' => exact getElem_set_fin_ne _ (fun e => h (congrArg _ e)) v
    | _ => rfl
  | omsk w => cases q with
    | omsk w' => exact getElem_set_fin_ne _ (fun e => h (congrArg _ e)) v
    | _ => rfl
  | skip k => cases q with
    | skip k' => exact getElem_set_fin_ne _ (fun e => h (congrArg _ e)) v
    | _ => rfl
  | ivfix j => cases q with
    | ivfix j' => exact getElem_set_fin_ne _ (fun e => h (congrArg _ e)) v
    | _ => rfl
  | _ => rfl

/-- A configuration write leaves every other register of the map as it was. -/
theorem readReg_writeConfig_ne (s : State) {m q : MapReg} (v : Word) (h : q ≠ m) :
    readReg { s with cfg := s.cfg.write m v } q = readReg s q := by
  have hword := s.cfg.word_write_ne v h
  cases q with
  | mode | rounds | nw | sLo | sHi | thrLo | thrHi | target | idm | omsk | skip | ivfix => exact hword
  | _ => rfl

/-! ### The lane-0 window -/

/-- What a window register shows of lane 0; 0 for the others. -/
def Lane.word (L : Lane) : MapReg → Word
  | .l0sr r i => (L.reg r)[i]
  | .l0k j => L.k[j]
  | .l0flags => L.flagsWord
  | .l0mcLo => lowWord L.mc
  | .l0mcHi => highWord L.mc
  | .l0tcLo => lowWord L.tc
  | .l0tcHi => highWord L.tc
  | _ => 0

theorem State.lane0_of_getElem? {s : State} {L : Lane} (h : s.lanes[0]? = some L) (f : Lane → Word) : s.lane0 f = f L := by
  unfold State.lane0
  split
  next M rest hs => rw [hs] at h; cases h; rfl
  next hs => rw [hs] at h; cases h

theorem State.window_of_idle {s : State} {L : Lane} (hidle : s.coord.cst = .idle) (h : s.lanes[0]? = some L)
    (f : Lane → Word) : s.window f = f L := by
  simp [State.window, s.busy_eq_false_iff.mpr hidle, s.lane0_of_getElem? h]

theorem State.onLane0_lanes {s : State} {L : Lane} (h : s.lanes[0]? = some L) (f : Lane → Lane) :
    (s.onLane0 f).lanes = s.lanes.set 0 (f L) := by
  unfold State.onLane0
  split
  next M rest hs =>
    rw [hs] at h ⊢
    cases h
    rfl
  next hs => simp [hs] at h

@[simp] theorem State.busy_onLane0 (s : State) (f : Lane → Lane) : (s.onLane0 f).busy = s.busy := by
  simp [State.busy]

theorem State.lane0_onLane0 (s : State) (f : Lane → Lane) (g : Lane → Word) :
    (s.onLane0 f).lane0 g = s.lane0 fun L => g (f L) := by
  unfold State.lane0 State.onLane0
  cases hs : s.lanes <;> simp [hs]

theorem State.window_onLane0 (s : State) (f : Lane → Lane) (g : Lane → Word) :
    (s.onLane0 f).window g = s.window fun L => g (f L) := by
  simp [State.window, s.lane0_onLane0]

section
variable {m : MapReg} {mask : Word}

theorem WindowReg.readReg (h : WindowReg m mask) (s : State) : readReg s m = s.window fun L => L.word m := by
  cases h <;> rfl

theorem WindowReg.writeRegIdle (h : WindowReg m mask) (s : State) (v : Word) :
    writeRegIdle s m v = .next (s.onLane0 fun L => L.writeWindow m v) := by
  cases h <;> rfl

theorem WindowReg.ne_reserved (h : WindowReg m mask) : m ≠ .reserved := by
  rintro rfl
  cases h

theorem WindowReg.word_writeWindow (h : WindowReg m mask) (L : Lane) (v : Word) :
    (L.writeWindow m v).word m = v &&& mask := by
  cases h with
  | l0sr r i =>
    have hreg : (L.writeWindow (.l0sr r i) v).reg r = (L.reg r).set i v := L.reg_putReg_same r _
    exact ((congrArg (·[i]) hreg).trans (Vector.getElem_set_self _)).trans (and_fullMask v).symm
  | l0k j => exact (Vector.getElem_set_self _).trans (and_fullMask v).symm
  | l0flags => exact Lane.flagsWord_eq_and rfl rfl
  | l0mcLo | l0tcLo => exact (lowWord_withLowWord _ _).trans (and_fullMask v).symm
  | l0mcHi | l0tcHi => exact (highWord_withHighWord _ _).trans (and_fullMask v).symm

/-- While idle a window register is read back as it was written, of `L0FLAGS` bits 1:0 (R71). -/
theorem WindowReg.readReg_writeWindow (h : WindowReg m mask) {s : State} {L : Lane} (hidle : s.coord.cst = .idle)
    (hL : s.lanes[0]? = some L) (v : Word) :
    Machine.readReg (s.onLane0 fun L => L.writeWindow m v) m = v &&& mask := by
  rw [h.readReg, s.window_onLane0, s.window_of_idle hidle hL, h.word_writeWindow]

end

/-- A window write leaves every other register of the window as it was. -/
theorem Lane.word_writeWindow_ne (L : Lane) {m q : MapReg} (v : Word) (h : q ≠ m) :
    (L.writeWindow m v).word q = L.word q := by
  cases m with
  | l0sr r i => cases q with
    | l0sr r' i' =>
      by_cases hr : r' = r
      · subst hr
        have hreg : (L.writeWindow (.l0sr r' i) v).reg r' = (L.reg r').set i v := L.reg_putReg_same r' _
        exact (congrArg (·[i']) hreg).trans (getElem_set_fin_ne _ (fun e => h (congrArg _ e)) v)
      · exact congrArg (·[i']) (L.reg_putReg_ne _ hr)
    | _ => rfl
  | l0k j => cases q with
    | l0k j' => exact getElem_set_fin_ne _ (fun e => h (congrArg _ e)) v
    | _ => rfl
  | l0flags => cases q with
    | l0flags => exact absurd rfl h
    | _ => rfl
  | l0mcLo => cases q with
    | l0mcLo => exact absurd rfl h
    | l0mcHi => exact highWord_withLowWord _ _
    | _ => rfl
  | l0mcHi => cases q with
    | l0mcHi => exact absurd rfl h
    | l0mcLo => exact lowWord_withHighWord _ _
    | _ => rfl
  | l0tcLo => cases q with
    | l0tcLo => exact absurd rfl h
    | l0tcHi => exact highWord_withLowWord _ _
    | _ => rfl
  | l0tcHi => cases q with
    | l0tcHi => exact absurd rfl h
    | l0tcLo => exact lowWord_withHighWord _ _
    | _ => rfl
  | _ => rfl

theorem Lane.statWord_writeWindow (L : Lane) (m : MapReg) (v : Word) : (L.writeWindow m v).statWord = L.statWord := by
  cases m <;> rfl

theorem Lane.keepsSource_writeWindow (L : Lane) (m : MapReg) (v : Word) : KeepsSource L (L.writeWindow m v) := by
  cases m <;> exact ⟨rfl, rfl⟩

/-- A window write leaves every other register of the map as it was. -/
theorem readReg_writeWindow_ne (s : State) {m q : MapReg} (v : Word) (h : q ≠ m) :
    readReg (s.onLane0 fun L => L.writeWindow m v) q = readReg s q := by
  have hword : (fun L : Lane => (L.writeWindow m v).word q) = fun L => L.word q :=
    funext fun L => L.word_writeWindow_ne v h
  cases q with
  | l0sr | l0k | l0flags | l0mcLo | l0mcHi | l0tcLo | l0tcHi =>
    exact (s.window_onLane0 _ _).trans (congrArg s.window hword)
  | l0stat =>
    refine (s.lane0_onLane0 _ _).trans (congrArg s.lane0 ?_)
    exact funext fun L => L.statWord_writeWindow m v
  | _ => simp [readReg, State.statusWord]

/-! ### Accesses, idle and busy -/

theorem regRead_address (s : State) (m : MapReg) : regRead s m.address = readReg s m := by
  rw [regRead, regAt_address]

/-- What a register shows does not depend on the accesses still pending. -/
theorem regRead_hostq (s : State) (q : List HostAccess) (a : BitVec 11) :
    regRead { s with inp := { s.inp with hostq := q } } a = regRead s a := by
  unfold regRead
  cases regAt a <;> rfl

theorem regWrite_of_busy {s : State} (h : s.coord.cst ≠ .idle) (a : BitVec 11) (v : Word) : regWrite s a v = .next s := by
  simp [regWrite, s.busy_eq_true_iff.mpr h]

theorem regWrite_of_idle {s : State} (h : s.coord.cst = .idle) (a : BitVec 11) (v : Word) :
    regWrite s a v = writeRegIdle s (regAt a) v := by
  simp [regWrite, s.busy_eq_false_iff.mpr h]

/-- A register that ignores writes ignores them busy or idle (R66). -/
theorem regWrite_of_ignored {s : State} {a : BitVec 11} {v : Word} (h : writeRegIdle s (regAt a) v = .next s) :
    regWrite s a v = .next s := by
  unfold regWrite
  split
  next => rfl
  next => exact h

theorem ReadOnlyReg.writeRegIdle {m : MapReg} (h : ReadOnlyReg m) (s : State) (v : Word) :
    writeRegIdle s m v = .next s := by
  cases h <;> rfl

/-- A word below `2 ^ k` has no bit outside the mask of its low `k` bits. -/
theorem and_not_lowMask {x mask : Word} {k : Nat} (hmask : mask.toNat = 2 ^ k - 1) (h : x.toNat < 2 ^ k) :
    x &&& ~~~mask = 0 := by
  have hx : x &&& mask = x := by
    apply BitVec.eq_of_toNat_eq
    rw [BitVec.toNat_and, hmask, Nat.and_two_pow_sub_one_of_lt_two_pow h]
  rw [← hx, BitVec.and_assoc, BitVec.and_not_self]
  exact BitVec.and_zero

/-- The reserved bits of the configuration registers read 0 (R66). -/
theorem Inv.word_reserved {s : State} (h : Inv s) {m : MapReg} {mask : Word} (hm : ConfigReg m mask) :
    s.cfg.word m &&& ~~~mask = 0 := by
  obtain ⟨hmode, hrounds, hnw, htarget⟩ := h.reserved
  have hfull : ~~~(0xFFFFFFFF : Word) = 0 := by decide
  cases hm with
  | mode => exact and_not_lowMask rfl hmode
  | rounds => exact and_not_lowMask rfl hrounds
  | nw => exact and_not_lowMask rfl hnw
  | target => exact and_not_lowMask rfl htarget
  | _ => rw [hfull]; exact BitVec.and_zero

/-! ### UOP writes and the host's turn (R64, R72) -/

/-- Some lane 0 is there. -/
theorem State.exists_lane0 {s : State} (h : s.lanes ≠ []) : ∃ L, s.lanes[0]? = some L :=
  ⟨_, List.getElem?_eq_getElem (List.length_pos_of_ne_nil h)⟩

/-- A legal word written to `UOP` is run on lane 0 (R72). -/
theorem State.writeUop_of_ok {s : State} {v : Word} {i : Instr} (h : decode (v.extractLsb' 0 16) = .ok i) :
    s.writeUop v = exec i (s.issuedFrom .uopPort) := by
  simp [State.writeUop, runWord, h]

/-- An illegal word written to `UOP` sets `UOPERR` and `UOPCODE`, and changes nothing else of the machine (R307). -/
theorem State.writeUop_of_error {s : State} {v : Word} {e : Illegal} (hlanes : s.lanes ≠ [])
    (h : decode (v.extractLsb' 0 16) = .error e) :
    s.writeUop v = .next { s.issuedFrom .uopPort with status := s.status.uopFault .illegalUop } := by
  obtain ⟨L, hL⟩ := State.exists_lane0 hlanes
  have hissued : IssuedOn (s.issuedFrom .uopPort) L := hL
  have hput : s.lanes.set 0 L = s.lanes := by
    obtain ⟨hlt, hget⟩ := List.getElem?_eq_some_iff.mp hL
    rw [← hget, List.set_getElem_self]
  simp [State.writeUop, runWord, h, onLane_of_issuedOn hissued, takeLaneFault, State.putLane, hput]

theorem State.writeUop_next {s : State} (hlanes : s.lanes ≠ []) (v : Word) : ∃ t, s.writeUop v = .next t := by
  cases hd : decode (v.extractLsb' 0 16) with
  | error e => exact ⟨_, State.writeUop_of_error hlanes hd⟩
  | ok i =>
    obtain ⟨L, hL⟩ := State.exists_lane0 hlanes
    obtain ⟨e, -, hexec⟩ := exec_ending i s.cfg .uopPort L
    exact ⟨_, (State.writeUop_of_ok hd).trans (hexec _ ⟨rfl, rfl, hL⟩)⟩

/-- No register write stops the machine (R66). -/
theorem regWrite_next {s : State} (hlanes : s.lanes ≠ []) (a : BitVec 11) (v : Word) : ∃ t, regWrite s a v = .next t := by
  unfold regWrite
  split
  next => exact ⟨_, rfl⟩
  next =>
    rcases writeRegIdle_cases s (regAt a) v with h | h | h | h | h <;> rw [h]
    case inr.inl => exact State.writeUop_next hlanes v
    all_goals exact ⟨_, rfl⟩

/-- The host's turn is its next pending access, with the turn and the access used up (R64). -/
theorem step_of_access {s : State} {x : HostAccess} {rest : List HostAccess} (hturn : s.nextAgent = .host)
    (hq : s.inp.hostq = x :: rest) :
    step s = hostAccess { s with inp := { s.inp with
      sched := s.inp.sched.tail, hostq := rest, tick := s.inp.tick + 1 } } x := by
  simp [step, stepOnce, agentStep, hturn, hostStep, State.takeAccess, hq]

theorem step_of_write {s : State} {a : BitVec 11} {v : Word} {rest : List HostAccess} (hturn : s.nextAgent = .host)
    (hq : s.inp.hostq = .reg (.write a v) :: rest) :
    step s = regWrite { s with inp := { s.inp with
      sched := s.inp.sched.tail, hostq := rest, tick := s.inp.tick + 1 } } a v :=
  step_of_access hturn hq

end Sys2Proof.Machine
end

section
/-! ## The statements about the register map and the host port (R60 to R72) -/

namespace Sys2Proof.Machine

/-! ### The register map -/

/-- Settles O45: the map shows every register at its address, and the packed words are read bit by bit. -/
theorem registerMapAddresses : Obligations.RegisterMapAddresses := by
  unfold Obligations.RegisterMapAddresses
  refine ⟨regAt_address .ctrl, regAt_address .status, regAt_address .mode, regAt_address .rounds, regAt_address .nw,
    regAt_address .sLo, regAt_address .sHi, regAt_address .thrLo, regAt_address .thrHi, regAt_address .progress,
    regAt_address .target, regAt_address .uop, regAt_address .wkerrcnt,
    fun w => ⟨regAt_address (.idm w), regAt_address (.omsk w)⟩,
    fun k => ⟨regAt_address (.skip k), regAt_address (.pnb k), regAt_address (.npnb k), regAt_address (.donemap k),
      regAt_address (.l0k k)⟩,
    fun j => regAt_address (.ivfix j), fun r i => regAt_address (.l0sr r i), regAt_address .l0flags,
    regAt_address .l0mcLo, regAt_address .l0mcHi, regAt_address .l0tcLo, regAt_address .l0tcHi, regAt_address .l0stat,
    fun idx => ⟨regAt_address (.biasLo idx), regAt_address (.biasHi idx), regAt_address (.matchesLo idx),
      regAt_address (.matchesHi idx)⟩,
    fun s => ?_, fun L => ?_, rfl, rfl, rfl, rfl, rfl, rfl, rfl, rfl, rfl, rfl, rfl, rfl⟩
  · have hbit := s.getLsbD_statusWord
    have hbusy : s.busy = decide (s.coord.cst ≠ .idle) :=
      Bool.eq_iff_iff.mpr (s.busy_eq_true_iff.trans decide_eq_true_iff.symm)
    exact ⟨(hbit 0).trans hbusy, hbit 1, hbit 2, hbit 3, hbit 4, hbit 5, hbit 6, s.statusWord_cfgcode,
      s.statusWord_uopcode⟩
  · exact ⟨L.statWord_lf, L.statWord_lrun, L.statWord_upc⟩

/-- Settles O59: what each register shows, at its address. -/
theorem registerReadsShowTheirState : Obligations.RegisterReadsShowTheirState := by
  unfold Obligations.RegisterReadsShowTheirState
  refine ⟨fun s => ?_, fun s L hL => ?_, fun s L hL hidle => ?_⟩
  · have read := regRead_address s
    exact ⟨read .ctrl, read .status, read .progress, read .uop, read .wkerrcnt, read .mode, read .rounds, read .nw,
      read .target, read .sLo, read .sHi, read .thrLo, read .thrHi, fun w => ⟨read (.idm w), read (.omsk w)⟩,
      fun k => ⟨read (.skip k), read (.pnb k), read (.npnb k), read (.donemap k)⟩, fun j => read (.ivfix j),
      fun idx => ⟨read (.biasLo idx), read (.biasHi idx), read (.matchesLo idx), read (.matchesHi idx)⟩⟩
  · exact (regRead_address s .l0stat).trans (s.lane0_of_getElem? hL _)
  · have read (m : MapReg) {mask : Word} (hm : WindowReg m mask) : regRead s m.address = L.word m := by
      rw [regRead_address, hm.readReg, s.window_of_idle hidle hL]
    have hflags : regRead s 0x198 = L.flagsWord := read .l0flags .l0flags
    refine ⟨fun r i => read (.l0sr r i) (.l0sr r i), fun j => read (.l0k j) (.l0k j), ?_, ?_, read .l0mcLo .l0mcLo,
      read .l0mcHi .l0mcHi, read .l0tcLo .l0tcLo, read .l0tcHi .l0tcHi⟩
    · exact hflags ▸ L.getLsbD_flagsWord 0
    · exact hflags ▸ L.getLsbD_flagsWord 1

/-! ### Reads, and writes to the configuration, the window, `CTRL` and the rest -/

/-- Settles O39: the step is the access itself, which only keeps the answer. -/
theorem readsChangeNothing : Obligations.ReadsChangeNothing := by
  unfold Obligations.ReadsChangeNothing
  intro s a rest hturn hq
  exact ⟨_, step_of_access hturn hq, ⟨rfl, rfl, rfl, rfl, rfl⟩, regRead_hostq s.takeTurn rest a, rfl, rfl, rfl, rfl⟩

/-- Settles O41: a busy engine drops every write, and a configuration register is a function of the configuration. -/
theorem configLockWhileBusy : Obligations.ConfigLockWhileBusy := by
  unfold Obligations.ConfigLockWhileBusy
  refine ⟨fun s a mask v hbusy _ => regWrite_of_busy hbusy a v, fun s t a mask hmask hcfg => ?_⟩
  have hm := configReg_of_configMask hmask
  rw [regRead, regRead, hm.readReg, hm.readReg, hcfg]

/-- Settles O40: what a write puts in its register, and no other register changes. -/
theorem configWritesReadBackMasked : Obligations.ConfigWritesReadBackMasked := by
  unfold Obligations.ConfigWritesReadBackMasked
  intro s a mask v hidle hmask
  have hm := configReg_of_configMask hmask
  refine ⟨_, (regWrite_of_idle hidle a v).trans (hm.writeRegIdle s v), hm.readReg_write s v, fun b hb => ?_, rfl,
    rfl, rfl, rfl, rfl⟩
  exact readReg_writeConfig_ne s v fun hba => hb (regAt_injective hm.ne_reserved hba)

/-- Settles O44: what a write puts in its register of lane 0, and no other register changes. -/
theorem windowWritesReadBack : Obligations.WindowWritesReadBack := by
  unfold Obligations.WindowWritesReadBack
  intro s a mask v hlanes hmask
  obtain ⟨L, hL⟩ := State.exists_lane0 hlanes
  have hm := windowReg_of_windowMask hmask
  refine ⟨fun hidle => ?_, fun hbusy => regWrite_of_busy hbusy a v⟩
  have hset := s.onLane0_lanes hL fun L => L.writeWindow (regAt a) v
  have hL' : (s.onLane0 fun L => L.writeWindow (regAt a) v).lanes[0]? = some (L.writeWindow (regAt a) v) := by
    rw [hset, List.getElem?_set_self (List.length_pos_of_ne_nil hlanes)]
  refine ⟨_, (regWrite_of_idle hidle a v).trans (hm.writeRegIdle s v), hm.readReg_writeWindow hidle hL v,
    fun b hb => readReg_writeWindow_ne s v fun hba => hb (regAt_injective hm.ne_reserved hba), ?_, fun l hl => ?_,
    ⟨L, _, hL, hL', L.keepsSource_writeWindow _ v⟩, s.onLane0_cfg _, s.onLane0_status _, s.onLane0_res _,
    s.onLane0_coord _, s.onLane0_inp _⟩
  · rw [hset, List.length_set]
  · rw [hset, List.getElem?_set_ne (Ne.symm hl)]

/-- Settles O42, by what the map shows at each kind of address and the bits of the packed words. -/
theorem reservedReadsZeroAndNothingFaults : Obligations.ReservedReadsZeroAndNothingFaults := by
  unfold Obligations.ReservedReadsZeroAndNothingFaults
  refine ⟨fun s a v ha => ?_, fun s a v ha => ?_, fun s a mask h hmask => ?_, fun s hlanes => ?_,
    fun s a v hlanes => regWrite_next hlanes a v⟩
  · have hres := regAt_of_reservedAddress ha
    exact ⟨by rw [regRead, hres]; rfl, regWrite_of_ignored (by rw [hres]; rfl)⟩
  · exact regWrite_of_ignored ((readOnlyReg_of_readOnlyAddress ha).writeRegIdle s v)
  · have hm := configReg_of_configMask hmask
    rw [regRead, hm.readReg]
    exact h.word_reserved hm
  · obtain ⟨L, hL⟩ := State.exists_lane0 hlanes
    have hstatus : regRead s 0x001 = s.statusWord := regRead_address s .status
    have hstat : regRead s 0x19D = L.statWord := (regRead_address s .l0stat).trans (s.lane0_of_getElem? hL _)
    refine ⟨hstatus ▸ s.statusWord_reserved, hstat ▸ L.statWord_reserved, fun hidle => ?_⟩
    have hflags : regRead s 0x198 = L.flagsWord := (regRead_address s .l0flags).trans (s.window_of_idle hidle hL _)
    exact hflags ▸ L.flagsWord_reserved

/-- Settles O43, by the two bits of the written word. -/
theorem ctrlWrites : Obligations.CtrlWrites := by
  unfold Obligations.CtrlWrites
  intro s v
  have hctrl (hidle : s.coord.cst = .idle) : regWrite s 0x000 v = .next (s.writeCtrl v) := regWrite_of_idle hidle 0x000 v
  refine ⟨fun hbusy => regWrite_of_busy hbusy _ v, fun hidle hstart => ?_, fun hidle hstart hclr => ?_,
    fun hidle hstart hclr => ?_⟩
  · rw [hctrl hidle, State.writeCtrl, if_pos hstart]
  · refine ⟨s.clearStatus, ?_, State.statusWord_clearStatus hidle, rfl, rfl, rfl, rfl, rfl⟩
    rw [hctrl hidle, State.writeCtrl, hstart, hclr]
    rfl
  · rw [hctrl hidle, State.writeCtrl, hstart, hclr]
    rfl

/-! ### The UOP port -/

/-- Settles O30: the step is the write, and what the write does follows from the word it carries. -/
theorem uopWriteRunsItsMicroOp : Obligations.UopWriteRunsItsMicroOp := by
  unfold Obligations.UopWriteRunsItsMicroOp
  refine ⟨fun s v rest i hturn hq hidle hd => ?_, fun s v rest hturn hq hbusy => ?_,
    fun s v rest e hturn hq hidle hlanes hd => ?_, fun s a v rest hturn hq => step_of_write hturn hq⟩
  · exact (step_of_write hturn hq).trans ((regWrite_of_idle (by exact hidle) _ v).trans (State.writeUop_of_ok hd))
  · exact (step_of_write hturn hq).trans (regWrite_of_busy (by exact hbusy) _ v)
  · exact (step_of_write hturn hq).trans
      ((regWrite_of_idle (by exact hidle) _ v).trans (State.writeUop_of_error hlanes hd))

theorem decode_of_decodeTableWord {nbits w : Nat} {i : Instr} (h : decodeTableWord nbits w = some i) :
    decode (BitVec.ofNat 16 (w % 2 ^ nbits)) = .ok i := by
  unfold decodeTableWord at h
  dsimp only at h
  split at h
  next =>
    split at h
    next j hj => rw [hj, Option.some.inj h]
    next => cases h
  next => cases h

/-- Settles O32: the placed word is the host's next access, a write to `UOP`. -/
theorem placedWordIsRunNext : Obligations.PlacedWordIsRunNext := by
  unfold Obligations.PlacedWordIsRunNext
  intro s nbits w i h
  have hword : (BitVec.ofNat 32 (w % 2 ^ nbits % 2 ^ 16)).extractLsb' 0 16 = BitVec.ofNat 16 (w % 2 ^ nbits) := by
    apply BitVec.eq_of_toNat_eq
    simp only [BitVec.extractLsb'_toNat, BitVec.toNat_ofNat, Nat.shiftRight_zero]
    omega
  have hturn : (s.withFetchWord nbits w).nextAgent = .host := rfl
  obtain ⟨hrun, -⟩ := uopWriteRunsItsMicroOp
  exact hrun _ _ _ i hturn rfl rfl (hword ▸ decode_of_decodeTableWord h)

/-! ### No fault under the invariant (R63, R66, R210, R214, R248, R252) -/

theorem Inv.lanes_ne_nil {s : State} (h : Inv s) : s.lanes ≠ [] := List.ne_nil_of_length_pos h.lanes.1

/-- A running lane has a micro-op to run: its micro-PC is in the list of a legal configuration (R210, R214). -/
theorem Inv.exists_runs {s : State} (h : Inv s) {l : Nat} {L : Lane} (hL : s.lanes[l]? = some L) (hrun : L.lrun = .run) :
    ∃ i, Runs s.cfg L i := by
  obtain ⟨-, r, -, hb⟩ := h.of_running hL hrun
  obtain ⟨hlegal, -⟩ := startRefusal_eq_none_iff.mp r.legal
  obtain ⟨-, hupc, -⟩ := hb.running hrun
  rw [← length_trialProgram] at hupc
  exact ⟨_, hrun, hlegal, List.getElem?_eq_getElem hupc⟩

theorem Inv.laneStep_next {s : State} (h : Inv s) (l : Nat) : ∃ t, Machine.laneStep l s = .next t := by
  by_cases hrunning : ∃ L, s.lanes[l]? = some L ∧ L.lrun = .run
  · obtain ⟨L, hL, hrun⟩ := hrunning
    obtain ⟨i, hi⟩ := h.exists_runs hL hrun
    obtain ⟨e, -, hnext⟩ := laneStep_ending s.cfg l hi
    exact ⟨_, hnext s rfl hL⟩
  · exact ⟨s, laneStep_of_not_running fun L hL hrun => hrunning ⟨L, hL, hrun⟩⟩

/-- A run has trials, so the join has a bias (R242, R248). -/
theorem Inv.batchTrials_ne_zero {s : State} (h : Inv s) (hbusy : s.coord.cst ≠ .idle) : s.batchTrials ≠ 0 := by
  obtain ⟨-, hworkers, -, htrials, -⟩ := startRefusal_eq_none_iff.mp (h.run hbusy).legal
  exact Nat.mul_ne_zero hworkers fun h0 => htrials (BitVec.eq_of_toNat_eq h0)

theorem Inv.coordinatorStep_next {s : State} (h : Inv s) : ∃ t, Machine.coordinatorStep s = .next t := by
  unfold Machine.coordinatorStep
  split
  next => exact ⟨_, rfl⟩
  next => exact ⟨_, rfl⟩
  next hwait =>
    split
    next =>
      rw [State.join, if_neg (h.batchTrials_ne_zero (by simp [hwait]))]
      split <;> exact ⟨_, rfl⟩
    next => exact ⟨_, rfl⟩
  next => exact ⟨_, rfl⟩

/-- The host's turn is refused for a narrow access only (R63). -/
theorem hostStep_next_or_narrow {s : State} (hlanes : s.lanes ≠ []) :
    (∃ t, hostStep s = .next t) ∨ hostStep s = .refused .narrowAccess ∧ s.inp.hostq.head? = some .narrow := by
  unfold hostStep State.takeAccess
  cases hq : s.inp.hostq with
  | cons x rest =>
    match x with
    | .narrow => exact .inr ⟨rfl, rfl⟩
    | .reg (.read a) => exact .inl ⟨_, rfl⟩
    | .reg (.write a v) => exact .inl (regWrite_next (by exact hlanes) a v)
  | nil =>
    cases ha : Config.hostAccess s.inp.tick with
    | none => exact .inl ⟨_, rfl⟩
    | some x =>
      match x with
      | .read a => exact .inl ⟨_, rfl⟩
      | .write a v => exact .inl (regWrite_next hlanes a v)

/-- Settles O56: each agent's turn answers a next state, but for a narrow access of the host. -/
theorem noFaultUnderTheInvariant : Obligations.NoFaultUnderTheInvariant := by
  unfold Obligations.NoFaultUnderTheInvariant
  intro s h
  have ht := h.takeTurn
  have hstep : step s = agentStep s.nextAgent s.takeTurn := rfl
  rw [hstep]
  cases s.nextAgent with
  | host =>
    rcases hostStep_next_or_narrow ht.lanes_ne_nil with hnext | ⟨hrefused, hnarrow⟩
    · exact .inl hnext
    · exact .inr ⟨hrefused, rfl, hnarrow⟩
  | coordinator => exact .inl ht.coordinatorStep_next
  | lane l => exact .inl (ht.laneStep_next l)
  | reset => exact .inl ⟨_, rfl⟩

end Sys2Proof.Machine
end

section
/-! ## The decoder, the opcode map and the encoder (R101 to R118)

The decoder is read part by part, and its opcode nibble format by format: where it answers (`isOk`), against the rows of
R113 and the clauses of R112, and what it answers, against the encoder. -/

namespace Sys2Proof

/-! ### Where each part of the decoder answers -/

@[simp] theorem isOk_ok {α : Type} (a : α) : (Except.ok a : Except Illegal α).isOk = true := rfl

@[simp] theorem isOk_error {α : Type} (e : Illegal) : (Except.error e : Except Illegal α).isOk = false := rfl

theorem isOk_iff_exists {α : Type} (x : Except Illegal α) : x.isOk = true ↔ ∃ a, x = .ok a := by
  cases x <;> simp

theorem isOk_eq_false_iff_exists {α : Type} (x : Except Illegal α) : x.isOk = false ↔ ∃ e, x = .error e := by
  cases x <;> simp

theorem isOk_decodeReg (f : BitVec 4) : (decodeReg f).isOk = decide (f.toNat ≤ 8) := by
  revert f
  decide

@[simp] theorem isOk_decode1 (mk : SReg → Instr) (f : BitVec 4) : (decode1 mk f).isOk = decide (f.toNat ≤ 8) := by
  rw [← isOk_decodeReg, decode1]
  cases decodeReg f <;> simp

@[simp] theorem isOk_decode2 (mk : SReg → SReg → Instr) (f g : BitVec 4) :
    (decode2 mk f g).isOk = (decide (f.toNat ≤ 8) && decide (g.toNat ≤ 8)) := by
  rw [← isOk_decodeReg f, decode2]
  cases decodeReg f <;> simp

@[simp] theorem isOk_decode3 (mk : SReg → SReg → SReg → Instr) (f g h : BitVec 4) :
    (decode3 mk f g h).isOk = (decide (f.toNat ≤ 8) && (decide (g.toNat ≤ 8) && decide (h.toNat ≤ 8))) := by
  rw [← isOk_decodeReg f, decode3]
  cases decodeReg f <;> simp

@[simp] theorem isOk_requireFixed (b : Bool) (x : Except Illegal Instr) : (requireFixed b x).isOk = (b && x.isOk) := by
  cases b <;> rfl

@[simp] theorem isOk_decodeFunct (n : Nat) : (decodeFunct n).isOk = (decide (1 ≤ n) && decide (n ≤ 4)) := by
  match n with
  | 0 | 1 | 2 | 3 | 4 => rfl
  | n + 5 => simp [decodeFunct]

/-! ### What each part reads -/

theorem decode1_eq_ok_iff {mk : SReg → Instr} {f : BitVec 4} {i : Instr} :
    decode1 mk f = .ok i ↔ ∃ r, f = r.id ∧ mk r = i := by
  simp only [← decodeReg_ok_iff, eq_comm (a := f), decode1]
  cases decodeReg f <;> simp

theorem decode2_eq_ok_iff {mk : SReg → SReg → Instr} {f g : BitVec 4} {i : Instr} :
    decode2 mk f g = .ok i ↔ ∃ r q, f = r.id ∧ g = q.id ∧ mk r q = i := by
  simp only [← decodeReg_ok_iff, eq_comm (a := f), decode2]
  cases decodeReg f <;> simp [decode1_eq_ok_iff]

theorem decode3_eq_ok_iff {mk : SReg → SReg → SReg → Instr} {f g h : BitVec 4} {i : Instr} :
    decode3 mk f g h = .ok i ↔ ∃ r q p, f = r.id ∧ g = q.id ∧ h = p.id ∧ mk r q p = i := by
  simp only [← decodeReg_ok_iff, eq_comm (a := f), decode3]
  cases decodeReg f <;> simp [decode2_eq_ok_iff]

theorem requireFixed_eq_ok_iff {b : Bool} {x : Except Illegal Instr} {i : Instr} :
    requireFixed b x = .ok i ↔ b = true ∧ x = .ok i := by
  cases b <;> simp [requireFixed]

theorem decodeFunct_eq_ok {n : Nat} {i : Instr} (h : decodeFunct n = .ok i) :
    i.wellFormed = true ∧ (encode i).toNat = n := by
  unfold decodeFunct at h
  split at h <;> cases h <;> exact ⟨rfl, rfl⟩

/-! ### The nibble 7:4 put together from its fields -/

theorem nibbleOfBits_bits (n : BitVec 4) : nibbleOfBits n[3] n[2] n[1] n[0] = n := by
  revert n
  decide

theorem arxNibble_fields (n : BitVec 4) (h : n[0] = false) :
    arxNibble (Rot.ofSel (n.extractLsb' 2 2)) (Ord.ofBit n[1]) = n := by
  revert n
  decide

theorem nibbleOfBits_high (n : BitVec 4) (h : n.extractLsb' 0 3 = 0) : nibbleOfBits n[3] false false false = n := by
  revert n
  decide

@[simp] theorem Fill.bit_ofBit (b : Bool) : (Fill.ofBit b).bit = b := by cases b <;> rfl

@[simp] theorem Side.bit_ofBit (b : Bool) : (Side.ofBit b).bit = b := by cases b <;> rfl

theorem encode_halfRound (half bwd : Bool) (s : SReg) (o : Ord) :
    encode (halfRound half bwd s o) = nibbles 7 s.id (nibbleOfBits half bwd o.bit false) 0 := by
  cases half <;> cases bwd <;> rfl

theorem wellFormed_halfRound (half bwd : Bool) (s : SReg) (o : Ord) : (halfRound half bwd s o).wellFormed = true := by
  cases half <;> cases bwd <;> rfl

/-- The two nibbles of a round index (R108). -/
theorem nibbles_of_index (c d : BitVec 4) :
    BitVec.ofNat 4 ((16 * c.toNat + d.toNat) / 16) = c ∧ BitVec.ofNat 4 (16 * c.toNat + d.toNat) = d ∧
      roundIndexOk (16 * c.toNat + d.toNat) = true := by
  refine ⟨BitVec.eq_of_toNat_eq ?_, BitVec.eq_of_toNat_eq ?_, ?_⟩
  · rw [BitVec.toNat_ofNat]
    omega
  · rw [BitVec.toNat_ofNat]
    omega
  · rw [roundIndexOk, decide_eq_true_eq]
    omega

/-! ### Encoding what was decoded (R118) -/

/-- Format Z: the word is its `funct` (R102). -/
theorem encode_of_decodeFunct {c d : BitVec 4} {i : Instr} (h : decodeFunct (16 * c.toNat + d.toNat) = .ok i) :
    i.wellFormed = true ∧ encode i = nibbles 0 0 c d := by
  obtain ⟨hwf, hword⟩ := decodeFunct_eq_ok h
  exact ⟨hwf, BitVec.eq_of_toNat_eq (by simp [hword, nibbles_toNat])⟩

/-- Format by format: the register fields are ids, and the nibble 7:4 is put together from the fields read from it. -/
theorem encode_of_decodeNibbles {a b c d : BitVec 4} {i : Instr} (h : decodeNibbles a b c d = .ok i) :
    i.wellFormed = true ∧ encode i = nibbles a b c d := by
  have ha : BitVec.ofNat 4 a.toNat = a := by simp
  rw [← ha]
  unfold decodeNibbles at h
  generalize a.toNat = op at h
  split at h <;>
    simp only [requireFixed_eq_ok_iff, decode1_eq_ok_iff, decode2_eq_ok_iff, decode3_eq_ok_iff, Bool.and_eq_true,
      beq_iff_eq, Bool.not_eq_true', reduceCtorEq] at h
  case h_1 =>
    obtain ⟨rfl, hfunct⟩ := h
    exact encode_of_decodeFunct hfunct
  case h_2 =>
    obtain ⟨rfl, r, q, rfl, rfl, rfl⟩ := h
    exact ⟨rfl, rfl⟩
  case h_3 | h_4 | h_5 =>
    obtain ⟨r, q, p, rfl, rfl, rfl, rfl⟩ := h
    exact ⟨rfl, rfl⟩
  case h_6 =>
    obtain ⟨⟨rfl, hzero⟩, r, rfl, rfl⟩ := h
    exact ⟨rfl, by simp only [encode, arxNibble_fields c hzero]; rfl⟩
  case h_7 | h_12 | h_13 =>
    obtain ⟨⟨rfl, rfl⟩, r, rfl, rfl⟩ := h
    exact ⟨rfl, rfl⟩
  case h_8 =>
    obtain ⟨⟨rfl, hzero⟩, r, rfl, rfl⟩ := h
    have hbits := nibbleOfBits_bits c
    rw [hzero] at hbits
    exact ⟨wellFormed_halfRound .., by simp only [encode_halfRound, Ord.bit_ofBit, hbits]; rfl⟩
  case h_9 | h_10 =>
    obtain ⟨r, rfl, rfl⟩ := h
    obtain ⟨hhigh, hlow, hidx⟩ := nibbles_of_index c d
    exact ⟨hidx, by simp only [encode, hhigh, hlow]; rfl⟩
  case h_11 | h_14 =>
    obtain ⟨⟨rfl, hzero⟩, r, rfl, rfl⟩ := h
    exact ⟨rfl, by simp only [encode, Fill.bit_ofBit, Side.bit_ofBit, nibbleOfBits_high c hzero]; rfl⟩

theorem encode_of_decode {u : Word16} {i : Instr} (h : decode u = .ok i) : i.wellFormed = true ∧ encode i = u := by
  have := encode_of_decodeNibbles h
  rwa [nibbles_of_word] at this

/-! ### Legal words are the words of the opcode map's rows (R113, R118) -/

theorem Laws.Row.statement (i : Instr) : Laws.Row.Statement i := by
  cases i with
  | drawk => exact Laws.Row.drawk
  | tglk => exact Laws.Row.tglk
  | matchUop => exact Laws.Row.matchUop
  | endUop => exact Laws.Row.endUop
  | copy d r => exact Laws.Row.copy d r
  | add z a b => exact Laws.Row.add z a b
  | sub z a b => exact Laws.Row.sub z a b
  | xor z a b => exact Laws.Row.xor z a b
  | arx s r o => exact Laws.Row.arx s r o
  | uarx18 s => exact Laws.Row.uarx18 s
  | hr1 s o => exact Laws.Row.hr1 s o
  | hr2 s o => exact Laws.Row.hr2 s o
  | bhr1 s o => exact Laws.Row.bhr1 s o
  | bhr2 s o => exact Laws.Row.bhr2 s o
  | fround s idx => exact Laws.Row.fround s idx
  | bround s idx => exact Laws.Row.bround s idx
  | initc s f => exact Laws.Row.initc s f
  | inskey s => exact Laws.Row.inskey s
  | inj s => exact Laws.Row.inj s
  | par s f => exact Laws.Row.par s f

/-- The word of what was decoded is in the row with its mnemonic. -/
theorem exists_row_of_decode {u : Word16} {i : Instr} (h : decode u = .ok i) :
    ∃ row ∈ opcodeMap, row.mnemonic = i.mnemonic ∧ row.matches u = true := by
  obtain ⟨hwf, rfl⟩ := encode_of_decode h
  exact Laws.Row.statement i hwf

/-- A masked comparison, nibble by nibble. -/
theorem and_eq_iff_nibbles (u m k : Word16) :
    u &&& m = k ↔
      u.extractLsb' 12 4 &&& m.extractLsb' 12 4 = k.extractLsb' 12 4 ∧
      u.extractLsb' 8 4 &&& m.extractLsb' 8 4 = k.extractLsb' 8 4 ∧
      u.extractLsb' 4 4 &&& m.extractLsb' 4 4 = k.extractLsb' 4 4 ∧
      u.extractLsb' 0 4 &&& m.extractLsb' 0 4 = k.extractLsb' 0 4 := by
  constructor
  · rintro rfl
    simp [BitVec.extractLsb'_and]
  · rintro ⟨h12, h8, h4, h0⟩
    rw [← nibbles_of_word (u &&& m), ← nibbles_of_word k]
    simp only [BitVec.extractLsb'_and, h12, h8, h4, h0]

/-- The bits of the nibble 7:4 that a mask of format A, H or F compares, as the decoder reads them. -/
theorem nibble_and_one (n : BitVec 4) : n &&& 1#4 = 0#4 ↔ n[0] = false := by
  revert n
  decide

theorem nibble_and_seven (n : BitVec 4) : n &&& 7#4 = 0#4 ↔ n.extractLsb' 0 3 = 0 := by
  revert n
  decide

theorem nibble_and_ones (n : BitVec 4) : n &&& 15#4 = n := BitVec.and_allOnes

/-- Format H compares bits 3 and 2, and bit 0 that must be 0. -/
theorem nibble_and_thirteen (n k : BitVec 4) :
    n &&& 13#4 = k ↔ n[3] = k[3] ∧ n[2] = k[2] ∧ k[1] = false ∧ n[0] = k[0] := by
  revert n k
  decide

theorem matches_nibbles_iff (row : OpcodeRow) (a b c d : BitVec 4) :
    row.matches (nibbles a b c d) = true ↔
      (a &&& row.mask.extractLsb' 12 4 = row.matchBits.extractLsb' 12 4 ∧
       b &&& row.mask.extractLsb' 8 4 = row.matchBits.extractLsb' 8 4 ∧
       c &&& row.mask.extractLsb' 4 4 = row.matchBits.extractLsb' 4 4 ∧
       d &&& row.mask.extractLsb' 0 4 = row.matchBits.extractLsb' 0 4) ∧
      ∀ lo ∈ row.regs, ((nibbles a b c d).extractLsb' lo 4).toNat ≤ 8 := by
  simp only [OpcodeRow.matches, Bool.and_eq_true, beq_iff_eq, and_eq_iff_nibbles, nibbles_op, nibbles_n2, nibbles_n1,
    nibbles_n0, List.all_eq_true, decide_eq_true_eq]

/-- Row by row: mask and match fix the opcode nibble and every field the decoder wants fixed, and the ids are legal. -/
theorem isOk_decodeNibbles_of_matches {row : OpcodeRow} {a b c d : BitVec 4} (hrow : row ∈ opcodeMap)
    (h : row.matches (nibbles a b c d) = true) : (decodeNibbles a b c d).isOk = true := by
  rw [matches_nibbles_iff] at h
  simp only [opcodeMap, List.cons_append, List.nil_append, List.mem_cons, List.not_mem_nil, or_false] at hrow
  rcases hrow with rfl | rfl | rfl | rfl | rfl | rfl | rfl | rfl | rfl | rfl | rfl | rfl | rfl | rfl | rfl | rfl | rfl |
    rfl | rfl | rfl
  all_goals
    simp [nibbles_n2, nibbles_n1, nibbles_n0, nibble_and_ones, nibble_and_one, nibble_and_seven, nibble_and_thirteen,
      -BitVec.extractLsb'_toNat] at h
    simp [decodeNibbles, h]

/-- A word is legal exactly when it is a word of some row. -/
theorem isOk_decode_iff (u : Word16) : (decode u).isOk = true ↔ ∃ row ∈ opcodeMap, row.matches u = true := by
  constructor
  · intro h
    obtain ⟨i, hi⟩ := (isOk_iff_exists _).mp h
    obtain ⟨row, hrow, -, hmatches⟩ := exists_row_of_decode hi
    exact ⟨row, hrow, hmatches⟩
  · rintro ⟨row, hrow, hmatches⟩
    rw [← nibbles_of_word u] at hmatches
    exact isOk_decodeNibbles_of_matches hrow hmatches

/-- Settles O2: a decoded word is the encoding of its micro-op, so it is in that mnemonic's row, and every word of a row
is decoded. -/
theorem decoderFollowsOpcodeMapAndEncoderInverts : Obligations.DecoderFollowsOpcodeMapAndEncoderInverts := by
  unfold Obligations.DecoderFollowsOpcodeMapAndEncoderInverts
  refine ⟨fun u i => exists_row_of_decode, fun u => ?_, fun u i => encode_of_decode, fun i => decode_encode⟩
  rw [← isOk_eq_false_iff_exists, ← Bool.not_eq_true, isOk_decode_iff]
  simp

/-! ### Rows of the opcode map are disjoint (R113) -/

/-- Two different rows want different bits where their masks meet. -/
theorem eq_of_matchBits_agree : ∀ a ∈ opcodeMap, ∀ b ∈ opcodeMap,
    a.matchBits &&& b.mask = b.matchBits &&& a.mask → a = b := by
  decide

/-- Settles O3: a word of both rows has the wanted bits of both where their masks meet. -/
theorem opcodeRowsNeverOverlap : Obligations.OpcodeRowsNeverOverlap := by
  unfold Obligations.OpcodeRowsNeverOverlap
  intro u a b ha hb hua hub
  refine eq_of_matchBits_agree a ha b hb ?_
  rw [← hua, ← hub, BitVec.and_assoc, BitVec.and_assoc, BitVec.and_comm a.mask]

/-! ### The printed words (R116) -/

/-- Settles O1: the decoder run on each printed word. -/
theorem specExampleWordsDecode : Obligations.SpecExampleWordsDecode := by
  unfold Obligations.SpecExampleWordsDecode
  decide

end Sys2Proof

/-! ### Illegal words (R112) -/

namespace Sys2Proof.Machine

theorem nibble_bit0_eq_false_iff (n : BitVec 4) : n[0] = false ↔ n.toNat % 2 = 0 := by
  revert n
  decide

/-- R112's clauses, format by format, on the nibbles the decoder reads. -/
theorem isOk_decodeNibbles_iff (a b c d : BitVec 4) :
    (decodeNibbles a b c d).isOk = true ↔ illegalByR112 (nibbles a b c d) = false := by
  have hword := nibbles_toNat a b c d
  have hop : (nibbles a b c d).toNat / 4096 = a.toNat := by omega
  have hlt := a.isLt
  simp only [illegalByR112, decodeNibbles, hop]
  clear hop
  generalize (nibbles a b c d).toNat = u, a.toNat = op at hword hlt ⊢
  interval_cases op <;> simp [BitVec.toNat_eq, nibble_bit0_eq_false_iff] <;> omega

/-- A word is legal exactly when no clause of R112 holds. -/
theorem isOk_decode_iff_legal (u : Word16) : (decode u).isOk = true ↔ illegalByR112 u = false := by
  have h := isOk_decodeNibbles_iff (u.extractLsb' 12 4) (u.extractLsb' 8 4) (u.extractLsb' 4 4) (u.extractLsb' 0 4)
  rwa [nibbles_of_word] at h

theorem exists_error_iff_illegal (u : Word16) : (∃ e, decode u = .error e) ↔ illegalByR112 u = true := by
  rw [← isOk_eq_false_iff_exists, ← Bool.not_eq_true, isOk_decode_iff_legal, Bool.not_eq_false]

/-- Executing a word that does not decode takes `IllegalUop` before any draw (R303). -/
theorem runWord_of_error {u : Word16} {e : Illegal} {s : State} {L : Lane} (hL : IssuedOn s L) (h : decode u = .error e) :
    runWord u s = .next (takeLaneFault s L .illegalUop) := by
  simp [runWord, h, onLane_of_issuedOn hL]

theorem legal_of_mem_trialWords {c : CfgRegs} {u : Word16} (h : u ∈ trialWords c) : illegalByR112 u = false := by
  obtain ⟨i, hi, rfl⟩ := List.mem_map.mp h
  rw [← isOk_decode_iff_legal, decode_encode (wellFormed_of_mem_trialProgram hi), isOk_ok]

/-- Settles O4: an illegal word is one the decoder rejects, and taking the fault after no draw keeps the source. -/
theorem illegalWordsRaiseIllegalUop : Obligations.IllegalWordsRaiseIllegalUop := by
  unfold Obligations.IllegalWordsRaiseIllegalUop
  refine ⟨exists_error_iff_illegal, by decide, by decide, fun u s L hu hL => ?_, fun _ _ => legal_of_mem_trialWords⟩
  obtain ⟨e, he⟩ := (exists_error_iff_illegal u).mpr hu
  obtain ⟨L', htook, hsource⟩ := tookFault_takeLaneFault hL .illegalUop 0
  exact ⟨_, L', runWord_of_error hL he, htook, hsource⟩

end Sys2Proof.Machine
end

section
/-! ## The bit primitives (R130 to R133)

A word is its 32 bits, so each law is read off bit by bit: `getBit_rotl32` and `getBit_toggleBit` say where each bit of
the result comes from, and `eq_of_getBit_eq` puts the bits together again. -/

namespace Sys2Proof.Machine

/-! ### Reading a bit (R131) -/

theorem eq_of_getBit_eq {v w : Word} (h : ∀ i < 32, getBit v i = getBit w i) : v = w :=
  BitVec.eq_of_getLsbD_eq h

@[simp] theorem getBit_xor (v w : Word) (i : Nat) : getBit (v ^^^ w) i = (getBit v i ^^ getBit w i) :=
  BitVec.getLsbD_xor

theorem getBit_toNat (w : Word) (b : Nat) : (getBit w b).toNat = w.toNat >>> b % 2 := by
  rw [getBit, ← BitVec.testBit_toNat, Nat.toNat_testBit, Nat.shiftRight_eq_div_pow]

/-! ### Rotation (R130) -/

/-- Bit `i` of the result is the bit `n mod 32` places below it, wrapped around. -/
theorem getBit_rotl32 (w : Word) (n : Nat) {i : Nat} (hi : i < 32) :
    getBit (rotl32 w n) i = getBit w ((i + (32 - n % 32)) % 32) := by
  unfold rotl32
  split_ifs with h0
  · rw [h0, Nat.sub_zero, Nat.add_mod_right, Nat.mod_eq_of_lt hi]
  · simp only [getBit, BitVec.getLsbD_or, BitVec.getLsbD_shiftLeft, BitVec.getLsbD_ushiftRight]
    by_cases hlt : i < n % 32
    · have hsrc : (i + (32 - n % 32)) % 32 = 32 - n % 32 + i := by omega
      simp [hlt, hsrc]
    · have hsrc : (i + (32 - n % 32)) % 32 = i - n % 32 := by omega
      have hout : 32 ≤ 32 - n % 32 + i := by omega
      simp [hlt, hi, hsrc, BitVec.getLsbD_of_ge w _ hout]

theorem getBit_rotl32_target (w : Word) (n : Nat) {i : Nat} (hi : i < 32) :
    getBit (rotl32 w n) ((i + n % 32) % 32) = getBit w i := by
  rw [getBit_rotl32 w n (by omega)]
  congr 1
  omega

theorem rotl32_of_mod_eq_zero (w : Word) {n : Nat} (h : n % 32 = 0) : rotl32 w n = w :=
  if_pos h

theorem rotl32_toNat (w : Word) {n : Nat} (h : n % 32 ≠ 0) :
    (rotl32 w n).toNat = (w.toNat <<< (n % 32)) % 2 ^ 32 ||| w.toNat >>> (32 - n % 32) := by
  rw [rotl32, if_neg h, BitVec.toNat_or, BitVec.toNat_shiftLeft, BitVec.toNat_ushiftRight]

/-- A word whose bits all agree is fixed by every rotation. -/
theorem rotl32_eq_self_of_forall_getBit {w : Word} {β : Bool} (h : ∀ i < 32, getBit w i = β) (n : Nat) :
    rotl32 w n = w :=
  eq_of_getBit_eq fun i hi => by rw [getBit_rotl32 w n hi, h i hi, h _ (Nat.mod_lt _ (by decide))]

theorem rotl32_mod (w : Word) (n : Nat) : rotl32 w (n % 32) = rotl32 w n := by
  simp only [rotl32, Nat.mod_mod]

theorem rotl32_rotl32 (w : Word) (m n : Nat) : rotl32 (rotl32 w m) n = rotl32 w (m + n) := by
  refine eq_of_getBit_eq fun i hi => ?_
  rw [getBit_rotl32 _ n hi, getBit_rotl32 w m (Nat.mod_lt _ (by decide)), getBit_rotl32 w (m + n) hi]
  congr 1
  omega

theorem rotl32_rotl32_complement (w : Word) {n : Nat} (hn : n ≤ 32) : rotl32 (rotl32 w n) (32 - n) = w := by
  rw [rotl32_rotl32, Nat.add_sub_cancel' hn, rotl32_of_mod_eq_zero w (Nat.mod_self 32)]

theorem rotl32_xor (v w : Word) (n : Nat) : rotl32 (v ^^^ w) n = rotl32 v n ^^^ rotl32 w n :=
  eq_of_getBit_eq fun i hi => by simp only [getBit_rotl32 _ n hi, getBit_xor]

/-! ### Toggling a bit (R132) -/

theorem toggleBit_eq_xor_twoPow (w : Word) (b : Nat) : toggleBit w b = w ^^^ BitVec.twoPow 32 b := by
  rw [toggleBit, BitVec.twoPow_eq]

theorem toggleBit_toNat (w : Word) {b : Nat} (hb : b < 32) : (toggleBit w b).toNat = w.toNat ^^^ 2 ^ b := by
  rw [toggleBit_eq_xor_twoPow, BitVec.toNat_xor, BitVec.toNat_twoPow_of_lt hb]

theorem getBit_toggleBit (w : Word) {b : Nat} (hb : b < 32) (c : Nat) :
    getBit (toggleBit w b) c = (getBit w c ^^ decide (b = c)) := by
  rw [toggleBit_eq_xor_twoPow, getBit_xor, getBit, getBit, BitVec.getLsbD_twoPow, decide_eq_true hb, Bool.true_and]

theorem getBit_toggleBit_same (w : Word) {b : Nat} (hb : b < 32) : getBit (toggleBit w b) b = !getBit w b := by
  rw [getBit_toggleBit w hb, decide_eq_true rfl, Bool.xor_true]

theorem getBit_toggleBit_of_ne (w : Word) {b c : Nat} (hb : b < 32) (hc : c ≠ b) :
    getBit (toggleBit w b) c = getBit w c := by
  rw [getBit_toggleBit w hb, decide_eq_false hc.symm, Bool.xor_false]

theorem toggleBit_toggleBit (w : Word) (b : Nat) : toggleBit (toggleBit w b) b = w := by
  simp only [toggleBit, BitVec.xor_assoc, BitVec.xor_self, BitVec.xor_zero]

theorem toggleBit_comm (w : Word) (b c : Nat) : toggleBit (toggleBit w b) c = toggleBit (toggleBit w c) b := by
  simp only [toggleBit, BitVec.xor_assoc, BitVec.xor_comm (1#32 <<< b)]

/-! ### The definitions and the laws -/

/-- Settles O5: rotation, reading and toggling as R130 to R132 define them, the printed examples by evaluation. -/
theorem bitPrimitivesAsDefined : Obligations.BitPrimitivesAsDefined := by
  unfold Obligations.BitPrimitivesAsDefined
  refine ⟨fun w n => rotl32_of_mod_eq_zero w, fun w n => rotl32_toNat w, fun w n i => getBit_rotl32_target w n,
    fun n => ⟨?zero, ?ones⟩, by decide, fun w b _ => getBit_toNat w b, by decide, fun w b => toggleBit_toNat w,
    fun w b c => getBit_toggleBit_of_ne w, by decide, by decide⟩
  case zero => exact rotl32_eq_self_of_forall_getBit (β := false) (by decide) n
  case ones => exact rotl32_eq_self_of_forall_getBit (β := true) (by decide) n

/-- Settles O6: the laws of R133. -/
theorem bitPrimitiveLaws : Obligations.BitPrimitiveLaws := by
  unfold Obligations.BitPrimitiveLaws
  refine ⟨fun w n => rotl32_rotl32_complement w, fun w b _ => toggleBit_toggleBit w b, fun w n => (rotl32_mod w n).symm,
    rotl32_rotl32, rotl32_xor, fun w b hb => ?_, fun w b c hb _ => getBit_toggleBit_of_ne w hb,
    fun w b c _ _ => toggleBit_comm w b c⟩
  rw [getBit_toggleBit_same w hb]
  cases getBit w b <;> rfl

end Sys2Proof.Machine
end

section
/-! ## The state-wide micro-ops (R140 to R147)

Each proof cites the micro-op's one meaning (`exec_…`) and the one lemma for what it then does to the machine: retiring a
lane (`writesReg_of_retire`, `completed_retire`) or taking a fault (`tookFault_takeLaneFault`). -/

namespace Sys2Proof.Machine

/-! ### Word-wise operations (R140 to R143, R147) -/

/-- Settles O7: COPY retires the lane with `dst` put. -/
theorem copyCompletes : Obligations.CopyCompletes := by
  unfold Obligations.CopyCompletes
  exact fun dst src _ _ h => writesReg_of_retire h (exec_copy h dst src)

/-- Settles O8: each of the three retires the lane with `z` put, and its words are those of the word-wise operation. -/
theorem addSubXorComplete : Obligations.AddSubXorComplete := by
  unfold Obligations.AddSubXorComplete
  intro z a b s L h
  refine ⟨⟨_, writesReg_of_retire h (exec_add h z a b), fun i => ?_⟩,
    ⟨_, writesReg_of_retire h (exec_sub h z a b), fun i => ?_⟩,
    ⟨_, writesReg_of_retire h (exec_xor h z a b), fun i => ?_⟩⟩
  · simp [BitVec.toNat_add]
  · simp [BitVec.toNat_sub, Nat.add_comm]
  · simp

/-- The difference is the sum with the word-wise negation. -/
theorem subState_eq_addState_of_neg {a b n : State16}
    (hn : ∀ i : Fin 16, n[i].toNat = (2 ^ 32 - b[i].toNat) % 2 ^ 32) : subState a b = addState a n :=
  state_ext fun i hi => by
    have hneg : n[i] = -b[i] := BitVec.eq_of_toNat_eq (by simpa [BitVec.toNat_neg] using hn ⟨i, hi⟩)
    simp [hneg, BitVec.sub_eq_add_neg]

/-- Settles O9, word by word from the laws of 32-bit addition and XOR. -/
theorem stateArithmeticLaws : Obligations.StateArithmeticLaws := by
  unfold Obligations.StateArithmeticLaws
  refine ⟨fun a b => state_ext fun i hi => ?_, fun a b => state_ext fun i hi => ?_, fun a b => state_ext fun i hi => ?_,
    fun a b c => state_ext fun i hi => ?_, fun _ _ _ => subState_eq_addState_of_neg,
    fun a b => state_ext fun i hi => ?_, fun a i => ?_, fun x r r' i => ⟨?_, fun hr => ?_⟩⟩
  · rw [getElem_subState, getElem_addState, BitVec.add_sub_cancel]
  · rw [getElem_addState, getElem_subState, BitVec.sub_add_cancel]
  · rw [getElem_addState, getElem_addState, BitVec.add_comm]
  · simp [BitVec.add_assoc]
  · rw [getElem_xorState, getElem_xorState, BitVec.xor_assoc, BitVec.xor_self, BitVec.xor_zero]
  · simp
  · simp
  · simp only [Fin.getElem_fin] at hr ⊢
    rw [getElem_subState, getElem_addState, hr, BitVec.add_sub_cancel]

/-! ### Constants, key and IV (R144 to R146) -/

/-- Settles O11: the words are those of `insertKey`. -/
theorem inskeyCompletes : Obligations.InskeyCompletes := by
  unfold Obligations.InskeyCompletes
  exact fun r _ L h => ⟨_, writesReg_of_retire h (exec_inskey h r), fun i => getElem_insertKey (L.reg r) L.k i i.isLt⟩

/-- Outside the constants' and the IV's positions INITC keeps the words of the register (R144). -/
theorem getElem_initConstIv_key (m : KeyMode) (iv : Vector Word 4) (S : State16) {i : Fin 16}
    (hi : 1 ≤ i.val ∧ i.val ≤ 4 ∨ 11 ≤ i.val ∧ i.val ≤ 14) : (initConstIv m iv S)[i] = S[i] := by
  have h0 : i.val ≠ 0 := by omega
  have h5 : i.val ≠ 5 := by omega
  have h10 : i.val ≠ 10 := by omega
  have h15 : i.val ≠ 15 := by omega
  have hiv : ¬ (6 ≤ i.val ∧ i.val ≤ 9) := by omega
  simp only [Fin.getElem_fin, getElem_initConstIv, if_neg h0, if_neg h5, if_neg h10, if_neg h15, dif_neg hiv]

/-- Settles O10: FIX retires the lane with the register put, RND does so after its four draws. -/
theorem initcCompletes : Obligations.InitcCompletes := by
  unfold Obligations.InitcCompletes
  intro r s L h m layout
  have hlayout (iv : Vector Word 4) : layout iv (initConstIv m iv (L.reg r)) := by
    refine ⟨?_, ?_, ?_, ?_, ?_, ?_, ?_, ?_, fun _ => getElem_initConstIv_key m iv _⟩ <;> simp [getElem_initConstIv]
  refine ⟨⟨_, writesReg_of_retire h (exec_initc_fix h r), hlayout _⟩, fun iv hiv => ?_⟩
  refine ⟨_, _, exec_initc_rnd_words h r iv hiv, completed_retire h rfl rfl rfl, ?_, fun q hq => ?_, ?_, ?_, ?_, ?_⟩
  · rw [Lane.reg_advance, Lane.reg_putReg_same]
    exact hlayout iv
  · rw [Lane.reg_advance, Lane.reg_putReg_ne _ _ hq, Lane.reg_moved]
  · simp [KeepsKey]
  · simp [KeepsFlags]
  · simp [KeepsCounters]
  · simp [SourceMoved]

/-- DRAWK whose draws all answer words writes `K`, moves the source, and changes nothing else (R146). -/
theorem exec_drawk_completes {s : State} {L : Lane} (h : IssuedOn s L) {k : KeyWords} {n : Nat}
    (hd : drawKey s.cfg.key128 s.inp.issue.lane L = (some k, L.moved n)) :
    ∃ t L', exec .drawk s = .next t ∧ Completed s t L L' ∧ L'.k = k ∧ KeepsRegs L L' ∧ KeepsFlags L L' ∧
      KeepsCounters L L' ∧ SourceMoved n L L' :=
  ⟨_, _, exec_drawk_some h hd, completed_retire h rfl rfl rfl, by simp, fun q => by rw [Lane.reg_advance]; rfl,
    by simp [KeepsFlags], by simp [KeepsCounters], by simp [SourceMoved]⟩

/-- The eight draws of 256-bit mode, all answered. -/
theorem drawKey_of_answers {l : Nat} {L : Lane} {k : KeyWords} (hk : L.answersWords l k) :
    drawKey false l L = (some k, L.moved 8) :=
  drawWords_of_answers k hk

/-- The four draws of 128-bit mode, all answered. -/
theorem drawKey_of_answers_key128 {l : Nat} {L : Lane} {k : Vector Word 4} (hk : L.answersWords l k) :
    drawKey true l L = (some (k ++ k), L.moved 4) := by
  simp [drawKey, drawWords_of_answers k hk]

/-- A draw of DRAWK that fails, the first to do so: it is consumed, and none after it (R146). -/
theorem drawKey_of_fail {key128 : Bool} {l n : Nat} {L : Lane} (w : Vector Word n) (hn : n < if key128 then 4 else 8)
    (hw : L.answersWords l w) (hf : L.answer l n = .fail) :
    drawKey key128 l L = (none, L.moved (n + 1)) := by
  cases key128 with
  | false => exact drawWords_of_fail hn w hw hf
  | true => simp [drawKey, drawWords_of_fail (n := 4) hn w hw hf]

/-- Settles O12, mode by mode. -/
theorem drawkCompletes : Obligations.DrawkCompletes := by
  unfold Obligations.DrawkCompletes
  refine fun s L h => ⟨fun k hmode hk => ?_, fun k hmode hk => ?_⟩
  · have hkey : s.cfg.key128 = false := hmode
    obtain ⟨t, L', hx, hdone, hk', hframe⟩ := exec_drawk_completes h (hkey ▸ drawKey_of_answers hk)
    exact ⟨t, L', hx, hdone, fun j => by rw [hk'], hframe⟩
  · have hkey : s.cfg.key128 = true := hmode
    obtain ⟨t, L', hx, hdone, hk', hframe⟩ := exec_drawk_completes h (hkey ▸ drawKey_of_answers_key128 hk)
    have hlower (j : Fin 4) : L'.k[j.val] = k[j] := by
      rw [hk']
      exact Vector.getElem_append_left j.isLt
    have hupper : Replicated L'.k := hk' ▸ replicated_append k
    exact ⟨t, L', hx, hdone, fun j => ⟨hlower j, (hupper j).trans (hlower j)⟩, hframe⟩

/-! ### A draw that fails (R144, R146, R302) -/

/-- Every micro-op that draws stops at its first failing draw, with nothing done but the source moved on. -/
theorem exec_of_draw_fail {i : Instr} {s : State} {L : Lane} (h : IssuedOn s L) (hi : i.draws = true) {n : Nat}
    (w : Vector Word n) (hn : n < if i = .drawk ∧ getBit s.cfg.mode 0 = false then 8 else 4)
    (hw : L.answersWords s.inp.issue.lane w) (hf : L.answer s.inp.issue.lane n = .fail) :
    exec i s = .next (takeLaneFault s (L.moved (n + 1)) .rngFail) := by
  unfold Instr.draws at hi
  split at hi
  next =>
    have hcount : n < if s.cfg.key128 then 4 else 8 := by
      cases hmode : s.cfg.key128 <;> simpa [show getBit s.cfg.mode 0 = _ from hmode] using hn
    exact exec_drawk_none h (drawKey_of_fail w hcount hw hf)
  next r => exact exec_initc_rnd_fail h r (by simpa using hn) w hw hf
  all_goals exact absurd hi Bool.false_ne_true

/-- Settles O13: the failing draw takes the fault on a lane of which only the source has moved. -/
theorem failedDrawTakesRngFail : Obligations.FailedDrawTakesRngFail := by
  unfold Obligations.FailedDrawTakesRngFail
  intro i s L n w h hi hn hw hf
  obtain ⟨L', htook, hmoved⟩ := tookFault_takeLaneFault h .rngFail (n + 1)
  exact ⟨_, L', exec_of_draw_fail h hi w hn hw hf, htook, hmoved⟩

end Sys2Proof.Machine
end

section
/-! ## Micro-steps, half-rounds and rounds (R160 to R172)

A micro-step reads and writes within the quartets of its ordering, and these cover the state. So each law of it is an
equality of the four words of one quartet (`state_ext_quartets`), which `arxStep_words` gives; the laws of half-rounds and
rounds are compositions of those of the micro-step. -/

namespace Sys2Proof.Machine

/-! ### The ordering tables (R160) -/

/-- Settles O14, by evaluation of the two tables. -/
theorem orderingTables : Obligations.OrderingTables := by
  unfold Obligations.OrderingTables
  refine ⟨rfl, rfl, rfl, rfl, fun o => ?_, by decide, by decide⟩
  cases o <;> decide

/-- Every index lies in a quartet of each ordering. -/
theorem exists_quartet (o : Ord) (i : Fin 16) : ∃ q ∈ quartets o, i = q.a ∨ i = q.b ∨ i = q.c ∨ i = q.d := by
  obtain ⟨-, -, -, -, hcover, -, -⟩ := orderingTables
  simpa using (hcover o).2 i

/-- Two states with the same words in each quartet of an ordering are the same. -/
theorem state_ext_quartets (o : Ord) {S T : State16}
    (h : ∀ q ∈ quartets o, S[q.a] = T[q.a] ∧ S[q.b] = T[q.b] ∧ S[q.c] = T[q.c] ∧ S[q.d] = T[q.d]) : S = T := by
  have hword : ∀ i : Fin 16, S[i] = T[i] := fun i => by
    obtain ⟨q, hq, hqi⟩ := exists_quartet o i
    obtain ⟨ha, hb, hc, hd⟩ := h q hq
    rcases hqi with rfl | rfl | rfl | rfl <;> assumption
  exact state_ext fun i hi => hword ⟨i, hi⟩

/-! ### The micro-step (R161, R162) -/

/-- R162: the second application reads the same two words, so it XORs the same rotated sum away. -/
@[simp] theorem arxStep_arxStep_same (S : State16) (r : Rot) (o : Ord) : arxStep (arxStep S r o) r o = S :=
  state_ext_quartets o fun q hq => by
    have hwords := fun T => arxStep_words T r o q hq
    cases r <;> simp only [hwords, BitVec.xor_assoc, BitVec.xor_self, BitVec.xor_zero, and_self]

/-- Settles O18. A single 1 in word 0 tells the orders apart: the first micro-step writes a word that the second reads. -/
theorem microStepInvolution : Obligations.MicroStepInvolution := by
  unfold Obligations.MicroStepInvolution
  refine ⟨arxStep_arxStep_same, ⟨(Vector.replicate 16 0).set 0 1, .r7, .r9, .odd, ?_, ?_⟩,
    ⟨(Vector.replicate 16 0).set 0 1, .r7, .odd, .even, ?_, ?_⟩⟩ <;> decide

theorem arxStep_bijective (r : Rot) (o : Ord) : Function.Bijective (arxStep · r o) :=
  Function.Involutive.bijective fun S => arxStep_arxStep_same S r o

theorem rotl32_zero (n : Nat) : rotl32 0#32 n = 0#32 := rotl32_eq_self_of_forall_getBit (β := false) (by decide) n

/-- The rotated sums of zero words are zero. -/
@[simp] theorem arxStep_zero (r : Rot) (o : Ord) : arxStep (Vector.replicate 16 0#32) r o = Vector.replicate 16 0#32 :=
  state_ext_quartets o fun q hq => by
    have hwords := arxStep_words (Vector.replicate 16 0#32) r o q hq
    cases r <;> simpa [rotl32_zero] using hwords

/-! ### The quarter-round (R163) -/

/-- Settles O19: each of the four micro-steps makes the next line of the block in every quartet. -/
theorem roundIsQuarterRounds : Obligations.RoundIsQuarterRounds := by
  unfold Obligations.RoundIsQuarterRounds
  intro S o q hq T
  have hwords := fun U r => arxStep_words U r o q hq
  simp only [T, hwords, quarterRound]

/-! ### The transpose symmetry (R172 (f)) -/

/-- Where the transpose takes the word of index `i` from. -/
def transposeIndex (i : Fin 16) : Fin 16 := ⟨4 * (i.val % 4) + i.val / 4, by omega⟩

theorem getElem_transpose (S : State16) (i : Fin 16) : (transpose S)[i] = S[transposeIndex i] := by
  simp [transpose, transposeIndex]

/-- The quartet of the transposed indices. -/
def Quartet.transpose (q : Quartet) : Quartet :=
  ⟨transposeIndex q.a, transposeIndex q.b, transposeIndex q.c, transposeIndex q.d⟩

/-- Each even quartet is the transpose of an odd one. -/
theorem Quartet.transpose_mem_odd : ∀ q ∈ quartets .even, q.transpose ∈ quartets .odd := by decide

/-- The even micro-step on a quartet of the transpose is the odd micro-step on the transposed quartet. -/
theorem arxStep_transpose_even (S : State16) (r : Rot) :
    arxStep (transpose S) r .even = transpose (arxStep S r .odd) :=
  state_ext_quartets .even fun q hq => by
    have heven := arxStep_words (transpose S) r .even q hq
    have hodd := arxStep_words S r .odd q.transpose (q.transpose_mem_odd hq)
    simp only [Quartet.transpose] at hodd
    simp only [getElem_transpose, heven, hodd, and_self]

theorem getElem_transpose_matrix (S : State16) (p q : Fin 4) :
    (transpose S)[4 * p.val + q.val] = S[4 * q.val + p.val] := by
  have hcol : (4 * p.val + q.val) % 4 = q.val := by omega
  have hrow : (4 * p.val + q.val) / 4 = p.val := by omega
  simp only [transpose, getElem_stateOf, hcol, hrow]

/-! ### Half-rounds and rounds (R166 to R172) -/

theorem roundOrd_of_odd {i : Nat} (h : i % 2 = 1) : roundOrd i = .odd := if_pos h

theorem roundOrd_of_even {i : Nat} (h : i % 2 = 0) : roundOrd i = .even := if_neg (by omega)

theorem fround_eq_hr2_hr1 (S : State16) (i : Nat) : fround S i = hr2 (hr1 S (roundOrd i)) (roundOrd i) := rfl

theorem bround_eq_bhr2_bhr1 (S : State16) (i : Nat) : bround S i = bhr2 (bhr1 S (roundOrd i)) (roundOrd i) := rfl

@[simp] theorem bhr2_hr1 (S : State16) (o : Ord) : bhr2 (hr1 S o) o = S := by simp [bhr2, hr1]

@[simp] theorem hr1_bhr2 (S : State16) (o : Ord) : hr1 (bhr2 S o) o = S := by simp [bhr2, hr1]

@[simp] theorem bhr1_hr2 (S : State16) (o : Ord) : bhr1 (hr2 S o) o = S := by simp [bhr1, hr2]

@[simp] theorem hr2_bhr1 (S : State16) (o : Ord) : hr2 (bhr1 S o) o = S := by simp [bhr1, hr2]

@[simp] theorem bround_fround (S : State16) (i : Nat) : bround (fround S i) i = S := by
  simp [fround_eq_hr2_hr1, bround_eq_bhr2_bhr1]

@[simp] theorem fround_bround (S : State16) (i : Nat) : fround (bround S i) i = S := by
  simp [fround_eq_hr2_hr1, bround_eq_bhr2_bhr1]

/-- A map with a two-sided inverse is a bijection, and so is the inverse. -/
theorem bijective_and_bijective_of_inverse {f g : State16 → State16} (hgf : ∀ S, g (f S) = S) (hfg : ∀ S, f (g S) = S) :
    Function.Bijective f ∧ Function.Bijective g :=
  ⟨Function.bijective_iff_has_inverse.mpr ⟨g, hgf, hfg⟩, Function.bijective_iff_has_inverse.mpr ⟨f, hfg, hgf⟩⟩

/-- Settles O20, clause by clause. -/
theorem roundLaws : Obligations.RoundLaws := by
  unfold Obligations.RoundLaws
  refine ⟨fun _ _ => ⟨rfl, rfl, rfl, rfl⟩, fun S i => ⟨fun hi => ?odd, fun hi => ?even⟩, fun S o i => ?inverses,
    fun r o i => ?bijective, fun r o i => ?zero, arxStep_transpose_even, getElem_transpose_matrix⟩
  case odd => simp only [fround_eq_hr2_hr1, bround_eq_bhr2_bhr1, roundOrd_of_odd hi, and_self]
  case even => simp only [fround_eq_hr2_hr1, bround_eq_bhr2_bhr1, roundOrd_of_even hi, and_self]
  case inverses => simp
  case bijective =>
    obtain ⟨hhr1, hbhr2⟩ := bijective_and_bijective_of_inverse (f := (hr1 · o)) (bhr2_hr1 · o) (hr1_bhr2 · o)
    obtain ⟨hhr2, hbhr1⟩ := bijective_and_bijective_of_inverse (f := (hr2 · o)) (bhr1_hr2 · o) (hr2_bhr1 · o)
    obtain ⟨hfround, hbround⟩ := bijective_and_bijective_of_inverse (f := (fround · i)) (bround_fround · i) (fround_bround · i)
    exact ⟨arxStep_bijective r o, Function.bijective_id, hhr1, hhr2, hbhr1, hbhr2, hfround, hbround⟩
  case zero => simp [uarx18, hr1, hr2, bhr1, bhr2, fround, bround]

/-! ### The micro-ops complete (R164 to R171) -/

/-- Settles O15: ARX retires the lane with the micro-step's state, whose words `arxStep_words` names. -/
theorem arxCompletes : Obligations.ArxCompletes := by
  unfold Obligations.ArxCompletes
  intro r rot o s L h
  refine ⟨_, writesReg_of_retire h (exec_arx h r rot o), rfl, fun q hq => ?_⟩
  have hwords := arxStep_words (L.reg r) rot o q hq
  cases rot <;> simpa using hwords

/-- Settles O16: each retires the lane with its own composition of micro-steps. -/
theorem halfRoundsAndRoundsComplete : Obligations.HalfRoundsAndRoundsComplete := by
  unfold Obligations.HalfRoundsAndRoundsComplete
  exact fun r o idx _ _ h =>
    ⟨writesReg_of_retire h (exec_hr1 h r o), writesReg_of_retire h (exec_hr2 h r o),
      writesReg_of_retire h (exec_bhr1 h r o), writesReg_of_retire h (exec_bhr2 h r o),
      writesReg_of_retire h (exec_fround h r idx), writesReg_of_retire h (exec_bround h r idx)⟩

/-- UARX18 without `UMODE` keeps the register. -/
theorem uarx18_false (S : State16) : uarx18 false S = S := rfl

/-- UARX18 with `UMODE` is the parameter. -/
theorem uarx18_true (S : State16) : uarx18 true S = Config.uAlt S := rfl

/-- Settles O17, by the value of `MODE.UMODE`. -/
theorem uarxCompletes : Obligations.UarxCompletes := by
  unfold Obligations.UarxCompletes
  intro r s L h
  have hwrites : WritesReg (.uarx18 r) s L r (uarx18 s.cfg.umode (L.reg r)) := writesReg_of_retire h (exec_uarx18 h r)
  refine ⟨fun hmode => ?_, fun hmode => ?_⟩
  · have humode : s.cfg.umode = false := hmode
    rwa [humode, uarx18_false] at hwrites
  · have humode : s.cfg.umode = true := hmode
    rwa [humode, uarx18_true] at hwrites

end Sys2Proof.Machine
end

section
/-! ## The sampler micro-ops (R190 to R195)

INJ, PAR, TGLK, MATCH and END each retire (END: put) the lane their one meaning (`exec_…`) names. A parity is the oddness
of a sum, so its laws are laws of sums modulo 2; the laws on `MC` and `TC` follow from what each micro-op writes. -/

namespace Sys2Proof.Machine

/-! ### Parity (R191) -/

theorem decide_odd_add (a b : Nat) : decide ((a + b) % 2 = 1) = (decide (a % 2 = 1) ^^ decide (b % 2 = 1)) := by
  rcases Nat.mod_two_eq_zero_or_one a with ha | ha <;> rcases Nat.mod_two_eq_zero_or_one b with hb | hb <;>
    simp [Nat.add_mod, ha, hb]

/-- XORing the oddness of each term gives the oddness of the sum. -/
theorem foldl_xor_odd {α : Type} (f : α → Nat) (l : List α) (n : Nat) :
    l.foldl (fun p x => p ^^ decide (f x % 2 = 1)) (decide (n % 2 = 1)) = decide ((n + (l.map f).sum) % 2 = 1) := by
  induction l generalizing n with
  | nil => simp
  | cons x l ih => rw [List.foldl_cons, ← decide_odd_add, ih, List.map_cons, List.sum_cons, Nat.add_assoc]

/-- Terms that are the sums of two others modulo 2 make a sum that is too. -/
theorem sum_map_mod_two {α : Type} {f g h : α → Nat} (l : List α) (hfg : ∀ x, f x % 2 = (g x + h x) % 2) :
    (l.map f).sum % 2 = ((l.map g).sum + (l.map h).sum) % 2 := by
  induction l with
  | nil => rfl
  | cons x l ih =>
    have hx := hfg x
    simp only [List.map_cons, List.sum_cons]
    omega

@[simp] theorem getBit_and (v w : Word) (i : Nat) : getBit (v &&& w) i = (getBit v i && getBit w i) :=
  BitVec.getLsbD_and

theorem xor_and_mask (v w mask : Word) : (v ^^^ w) &&& mask = (v &&& mask) ^^^ (w &&& mask) :=
  eq_of_getBit_eq fun i _ => by simp only [getBit_and, getBit_xor, Bool.and_xor_distrib_right]

theorem popcount_eq_countP (w : Word) : popcount w = (List.range 32).countP (getBit w ·) := by
  unfold popcount
  generalize List.range 32 = l
  induction l with
  | nil => rfl
  | cons b l ih => cases hb : getBit w b <;> simp [hb, ih, Nat.add_comm]

theorem popcount_xor_mod_two (v w : Word) : popcount (v ^^^ w) % 2 = (popcount v + popcount w) % 2 :=
  sum_map_mod_two _ fun b => by
    rw [getBit_xor]
    cases getBit v b <;> cases getBit w b <;> rfl

/-- The parity accumulator is the oddness of the number of 1 bits under the mask. -/
theorem maskedParity_eq_odd (omsk S : State16) :
    maskedParity omsk S = decide (((List.finRange 16).map fun w => popcount (S[w] &&& omsk[w])).sum % 2 = 1) := by
  have hfold := foldl_xor_odd (fun w : Fin 16 => popcount (S[w] &&& omsk[w])) (List.finRange 16) 0
  rw [Nat.zero_add] at hfold
  exact hfold

/-- R195: the parity is linear. -/
theorem maskedParity_xorState (omsk a b : State16) :
    maskedParity omsk (xorState a b) = (maskedParity omsk a ^^ maskedParity omsk b) := by
  have hword (w : Fin 16) : popcount ((xorState a b)[w] &&& omsk[w]) % 2 =
      (popcount (a[w] &&& omsk[w]) + popcount (b[w] &&& omsk[w])) % 2 := by
    rw [Fin.getElem_fin, getElem_xorState, xor_and_mask, popcount_xor_mod_two]
    rfl
  rw [maskedParity_eq_odd, sum_map_mod_two _ hword, decide_odd_add, ← maskedParity_eq_odd, ← maskedParity_eq_odd]

/-- Under an empty mask no bit counts. -/
theorem maskedParity_of_omsk_zero {omsk : State16} (h : ∀ w : Fin 16, omsk[w] = 0) (S : State16) :
    maskedParity omsk S = false := by
  have hword (w : Fin 16) : popcount (S[w] &&& omsk[w]) = 0 := by
    rw [h w]
    exact (congrArg popcount BitVec.and_zero).trans (by decide)
  rw [maskedParity_eq_odd]
  simp only [hword]
  decide

/-! ### What each micro-op leaves -/

/-- After a retired micro-op the issuing lane is the one it left. -/
theorem IssuedOn.retire {s : State} {L : Lane} (h : IssuedOn s L) (M : Lane) :
    IssuedOn (Machine.retire s M) (M.advance s.inp.issue) :=
  s.lane_putLane_same _ L _ h

theorem Lane.countMatch_mc (L : Lane) : L.countMatch.mc = if L.fp = L.bp then L.mc + 1 else L.mc := by
  by_cases h : L.fp = L.bp <;> simp [Lane.countMatch, Lane.flagsMatch, h]

theorem exec_tglk_good {s : State} {L : Lane} (h : IssuedOn s L) (hgood : badTarget s.cfg = false) :
    exec .tglk s = .next (retire s { L with k := toggleTarget s.cfg L.k }) := by
  rw [exec_tglk h, hgood]
  rfl

theorem exec_tglk_bad {s : State} {L : Lane} (h : IssuedOn s L) (hbad : badTarget s.cfg = true) :
    exec .tglk s = .next (takeLaneFault s L .badTarget) := by
  rw [exec_tglk h, hbad]
  rfl

theorem CfgRegs.kb_eq (c : CfgRegs) : c.kb = c.target.toNat % 32 := by
  simp [CfgRegs.kb]

theorem badTarget_eq_true_iff (c : CfgRegs) : badTarget c = true ↔ c.key128 = true ∧ 4 ≤ c.kw.val := by
  simp [badTarget]

/-- TGLK toggles the target bit, and in 128-bit mode its replica, which lies in the upper half of the key (R192). -/
theorem getElem_toggleTarget {c : CfgRegs} (hbad : badTarget c = false) (K : KeyWords) (j : Nat) (hj : j < 8) :
    (toggleTarget c K)[j] =
      if j = c.kw.val ∨ c.key128 = true ∧ j = c.kw.val + 4 then toggleBit K[j] c.kb else K[j] := by
  unfold toggleTarget
  cases hkey : c.key128 with
  | false => simp [getElem_toggleKeyBit]
  | true =>
    have hkw : c.kw.val < 4 := by simpa [badTarget, hkey] using hbad
    have hkw4 : (c.kw + 4).val = c.kw.val + 4 := by
      rw [Fin.val_add]
      exact Nat.mod_eq_of_lt (show c.kw.val + 4 < 8 by omega)
    by_cases hlow : j = c.kw.val <;> simp [getElem_toggleKeyBit, hkw4, hlow]

theorem toggleTarget_toggleTarget {c : CfgRegs} (hbad : badTarget c = false) (K : KeyWords) :
    toggleTarget c (toggleTarget c K) = K :=
  Vector.ext fun j hj => by
    rw [getElem_toggleTarget hbad, getElem_toggleTarget hbad]
    split
    · exact toggleBit_toggleBit _ _
    · rfl

/-! ### The micro-ops complete (R190 to R194) -/

/-- Settles O21: INJ retires the lane with the XOR of the register and `IDM` put. -/
theorem injCompletes : Obligations.InjCompletes := by
  unfold Obligations.InjCompletes
  exact fun r s L h => ⟨_, writesReg_of_retire h (exec_inj h r), fun w => getElem_xorState _ _ w w.isLt⟩

/-- Settles O22: PAR retires the lane with one flag put, and a masked word has its 1 bits where both words have one. -/
theorem parCompletes : Obligations.ParCompletes := by
  unfold Obligations.ParCompletes
  intro r side s L h ones p
  have hp : maskedParity s.cfg.omsk (L.reg r) = p := by
    have hword (w : Fin 16) : popcount ((L.reg r)[w] &&& s.cfg.omsk[w]) =
        (List.range 32).countP fun b => getBit s.cfg.omsk[w] b && getBit (L.reg r)[w] b := by
      simp [popcount_eq_countP, Bool.and_comm]
    simp only [maskedParity_eq_odd, hword, p, ones]
  refine ⟨_, _, exec_par h r side, completed_retire h (by simp) (by simp) (by simp), fun q => ?_, ?_, ?_, ?_, ?_, ?_⟩
  · simp [Lane.reg]
  · simp [KeepsKey]
  · simp [KeepsCounters]
  · simp [KeepsSource]
  · cases side <;> simp [hp]
  · cases side <;> simp [hp]

/-- Settles O23, by whether the target is a bad one. -/
theorem tglkCompletesOrBadTarget : Obligations.TglkCompletesOrBadTarget := by
  unfold Obligations.TglkCompletesOrBadTarget
  intro s L h kb kw key128
  have hiff : badTarget s.cfg = true ↔ key128 = true ∧ 4 ≤ kw := by
    rw [badTarget_eq_true_iff, s.cfg.kw_val]
    rfl
  refine ⟨fun hgood => ?_, fun hbad => ?_⟩
  · have hgood' : badTarget s.cfg = false := Bool.eq_false_iff.mpr fun hb => hgood (hiff.mp hb)
    refine ⟨_, _, exec_tglk_good h hgood', completed_retire h rfl rfl rfl, fun q => ?_, ?_, ?_, ?_, fun j => ?_⟩
    · rw [Lane.reg_advance]
      rfl
    · simp [KeepsFlags]
    · simp [KeepsCounters]
    · simp [KeepsSource]
    · rw [Lane.advance_k, Fin.getElem_fin, getElem_toggleTarget hgood', s.cfg.kw_val, s.cfg.kb_eq]
      rfl
  · obtain ⟨L', htook, hmoved⟩ := tookFault_takeLaneFault h .badTarget 0
    exact ⟨_, L', exec_tglk_bad h (hiff.mpr hbad), htook, by simpa [SourceMoved, KeepsSource] using hmoved⟩

/-- Settles O24: MATCH retires the lane as `countMatch` leaves it. -/
theorem matchCompletes : Obligations.MatchCompletes := by
  unfold Obligations.MatchCompletes
  intro s L h
  refine ⟨_, _, exec_matchUop h, completed_retire h (by simp) (by simp) (by simp), fun q => ?_, ?_, ?_, ?_, ?_, ?_⟩
  · simp [Lane.reg]
  · simp [KeepsKey]
  · simp [KeepsFlags]
  · simp [KeepsSource]
  · simp
  · rw [Lane.advance_mc, Lane.countMatch_mc]
    split <;> simp [BitVec.toNat_add]

/-- Settles O25, by the place the END is issued from. -/
theorem endCompletes : Obligations.EndCompletes := by
  unfold Obligations.EndCompletes
  intro s L h
  refine ⟨_, _, exec_endUop h, onlyLane_putLane s _ _, s.lane_putLane_same _ L _ h, fun q => ?_, ?_, ?_, ?_, ?_, ?_, ?_,
    fun hq => ?_, fun hq hrun => ?_⟩
  · simp [Lane.reg]
  · simp [KeepsKey]
  · simp [KeepsFlags]
  · simp [KeepsSource]
  · simp
  · simp
  · simp [BitVec.toNat_add]
  · simp [hq]
  · cases hi : s.inp.issue with
    | uopPort => exact absurd hi hq
    | program l => simp [Lane.endTrial_program _ _ hrun]

end Sys2Proof.Machine
end

section
/-! ## The laws of the sampler micro-ops, and matches against trials (R195) -/

namespace Sys2Proof.Machine

/-! ### The issuing lane after a micro-op that answered -/

section
variable {i : Instr} {s t : State} {L M : Lane}

theorem IssuedOn.unique (h : IssuedOn s L) (h' : IssuedOn s M) : L = M := Option.some.inj (h.symm.trans h')

theorem retired_of_next (h : IssuedOn s L) (hmeaning : exec i s = .next (retire s M)) (hx : exec i s = .next t) :
    IssuedOn t (M.advance s.inp.issue) ∧ t.cfg = s.cfg := by
  cases hmeaning.symm.trans hx
  exact ⟨h.retire M, rfl⟩

theorem endTrial_of_next (h : IssuedOn s L) (hx : exec .endUop s = .next t) :
    IssuedOn t (L.endTrial s.cfg.trials s.inp.issue) := by
  cases (exec_endUop h).symm.trans hx
  exact s.lane_putLane_same _ L _ h

theorem exec_next_inp (h : IssuedOn s L) (hx : exec i s = .next t) : t.inp = s.inp := by
  obtain ⟨t', -, hx', -, -, -, -, hinp, -⟩ := microOpsCompleteOrTakeTheirFault i s L h
  cases hx'.symm.trans hx
  exact hinp

end

/-! ### INJ and TGLK undone, an empty ID, an empty MASK -/

theorem xorState_xorState_same (a b : State16) : xorState (xorState a b) b = a := by
  obtain ⟨-, -, -, -, -, hxor, -, -⟩ := stateArithmeticLaws
  exact hxor a b

theorem xorState_of_zero {b : State16} (h : ∀ w : Fin 16, b[w] = 0) (a : State16) : xorState a b = a :=
  state_ext fun w hw => by
    have hb : b[w] = 0#32 := h ⟨w, hw⟩
    rw [getElem_xorState, hb, BitVec.xor_zero]

theorem keepsRegs_putReg_self (L : Lane) (r : SReg) : KeepsRegs L (L.putReg r (L.reg r)) := fun q => by
  by_cases hq : q = r
  · rw [hq, Lane.reg_putReg_same]
  · exact L.reg_putReg_ne _ hq

theorem inj_inj_keepsRegs {r : SReg} {s t u : State} {L : Lane} (h : IssuedOn s L) (ht : exec (.inj r) s = .next t)
    (hu : exec (.inj r) t = .next u) : ∃ L', IssuedOn u L' ∧ KeepsRegs L L' := by
  obtain ⟨h₁, hcfg⟩ := retired_of_next h (exec_inj h r) ht
  obtain ⟨h₂, -⟩ := retired_of_next h₁ (exec_inj h₁ r) hu
  refine ⟨_, h₂, fun q => ?_⟩
  by_cases hq : q = r
  · simp [hq, hcfg, xorState_xorState_same]
  · simp [Lane.reg_putReg_ne _ _ hq]

theorem tglk_tglk_keepsKey {s t u : State} {L : Lane} (h : IssuedOn s L) (hgood : badTarget s.cfg = false)
    (ht : exec .tglk s = .next t) (hu : exec .tglk t = .next u) : ∃ L', IssuedOn u L' ∧ KeepsKey L L' := by
  obtain ⟨h₁, hcfg⟩ := retired_of_next h (exec_tglk_good h hgood) ht
  obtain ⟨h₂, -⟩ := retired_of_next h₁ (exec_tglk_good h₁ (hcfg ▸ hgood)) hu
  refine ⟨_, h₂, ?_⟩
  simp [KeepsKey, hcfg, toggleTarget_toggleTarget hgood]

theorem inj_keepsRegs_of_idm_zero {r : SReg} {s t : State} {L : Lane} (h : IssuedOn s L)
    (hidm : ∀ w : Fin 16, s.cfg.idm[w] = 0) (ht : exec (.inj r) s = .next t) : ∃ L', IssuedOn t L' ∧ KeepsRegs L L' := by
  obtain ⟨h₁, -⟩ := retired_of_next h (exec_inj h r) ht
  rw [xorState_of_zero hidm] at h₁
  exact ⟨_, h₁, fun q => (Lane.reg_advance _ _ q).trans (keepsRegs_putReg_self L r q)⟩

/-- With an empty MASK both flags are 0, so MATCH counts. -/
theorem match_counts_of_omsk_zero {r q : SReg} {s t u v : State} {L : Lane} (h : IssuedOn s L)
    (homsk : ∀ w : Fin 16, s.cfg.omsk[w] = 0) (ht : exec (.par r .fwd) s = .next t) (hu : exec (.par q .bwd) t = .next u)
    (hv : exec .matchUop u = .next v) : ∃ L', IssuedOn v L' ∧ L'.fp = false ∧ L'.bp = false ∧ L'.mc = L.mc + 1 := by
  obtain ⟨h₁, hcfg⟩ := retired_of_next h (exec_par h r .fwd) ht
  obtain ⟨h₂, -⟩ := retired_of_next h₁ (exec_par h₁ q .bwd) hu
  obtain ⟨h₃, -⟩ := retired_of_next h₂ (exec_matchUop h₂) hv
  rw [hcfg, maskedParity_of_omsk_zero homsk, maskedParity_of_omsk_zero homsk] at h₃
  exact ⟨_, h₃, by simp, by simp, by simp [Lane.countMatch_mc]⟩

/-! ### Matches against trials, micro-op by micro-op (R193, R194, R246) -/

theorem dispatchBatch_counters {s : State} {l : Nat} {L : Lane} (hl : l < s.cfg.workers)
    (hL : s.dispatchBatch.lanes[l]? = some L) : L.mc = 0 ∧ L.tc = 0 := by
  rw [State.dispatchBatch_lanes, getElem?_mapLanesFrom] at hL
  obtain ⟨M, -, rfl⟩ := Option.map_eq_some_iff.mp hL
  simp [hl]

theorem Lane.endTrial_tc_toNat {L : Lane} (n : Word64) (q : Issue) (hwrap : L.tc.toNat + 1 < 2 ^ 64) :
    (L.endTrial n q).tc.toNat = L.tc.toNat + 1 := by
  rw [Lane.endTrial_tc]
  exact BitVec.toNat_add_of_lt hwrap

theorem exec_keeps_mc_le_tc {i : Instr} {s t : State} {L L' : Lane} (hi : i ≠ .matchUop) (h : IssuedOn s L)
    (hle : L.mc.toNat ≤ L.tc.toNat) (hwrap : L.tc.toNat + 1 < 2 ^ 64) (hx : exec i s = .next t) (ht : IssuedOn t L') :
    L'.mc.toNat ≤ L'.tc.toNat := by
  by_cases hend : i = .endUop
  · subst hend
    obtain rfl := ht.unique (endTrial_of_next h hx)
    rw [Lane.endTrial_tc_toNat _ _ hwrap, Lane.endTrial_mc]
    omega
  · have hlane : t.lanes[s.inp.issue.lane]? = some L' := exec_next_inp h hx ▸ ht
    obtain ⟨-, -, -, -, hmc, htc, -⟩ := onlyNamedMicroOpsWriteEachField i s t L L' h hx hlane
    rwa [hmc hi, htc hend]

/-- MATCH adds at most one match, and END one trial. -/
theorem match_end_keeps_mc_le_tc {s t u : State} {L L' : Lane} (h : IssuedOn s L) (hle : L.mc.toNat ≤ L.tc.toNat)
    (hwrap : L.tc.toNat + 1 < 2 ^ 64) (ht : exec .matchUop s = .next t) (hu : exec .endUop t = .next u)
    (hL' : IssuedOn u L') : L'.mc.toNat ≤ L'.tc.toNat := by
  obtain ⟨h₁, -⟩ := retired_of_next h (exec_matchUop h) ht
  obtain rfl := hL'.unique (endTrial_of_next h₁ hu)
  have hmc := L.countMatch_mc_le
  rw [Lane.endTrial_tc_toNat _ _ (by simpa using hwrap), Lane.endTrial_mc, Lane.advance_mc, Lane.advance_tc, Lane.countMatch_tc]
  omega

/-- Settles O26, law by law: each is a lemma above. -/
theorem samplerLaws : Obligations.SamplerLaws := by
  unfold Obligations.SamplerLaws
  exact ⟨fun _ _ _ _ _ => inj_inj_keepsRegs, fun _ _ _ _ => tglk_tglk_keepsKey, maskedParity_xorState,
    fun _ _ _ _ => inj_keepsRegs_of_idm_zero, fun _ _ _ _ _ _ _ => match_counts_of_omsk_zero,
    fun _ _ _ => dispatchBatch_counters, fun _ _ _ _ _ => exec_keeps_mc_le_tc, fun _ _ _ _ _ => match_end_keeps_mc_le_tc⟩

/-! ### Matches against trials, in a batch (R195, R214, R247) -/

theorem State.window_of_busy {s : State} (h : s.coord.cst ≠ .idle) (f : Lane → Word) :
    s.window f = Config.windowRead s.inp.tick :=
  if_pos (s.busy_eq_true_iff.mpr h)

/-- While busy a window address shows the unspecified word of the step, whatever the lanes hold (R71). -/
theorem regRead_window_of_busy {s : State} (h : s.coord.cst ≠ .idle) {a : BitVec 11} {mask : Word}
    (ha : windowMask a = some mask) : regRead s a = Config.windowRead s.inp.tick :=
  ((windowReg_of_windowMask ha).readReg s).trans (State.window_of_busy h _)

/-- The last micro-op of the list is END (R211). -/
theorem trialProgram_last {c : CfgRegs} {n : Nat} (h : n + 1 = trialLength c) : (trialProgram c)[n]? = some .endUop := by
  have hlt : n < (trialProgram c).length := by rw [length_trialProgram]; omega
  have hget := List.getElem?_eq_getElem hlt
  rcases trialProgram_position hget with ⟨-, hpos⟩ | ⟨-, hpos⟩ | ⟨hend, -⟩
  · omega
  · omega
  · rw [hget, hend]

theorem Inv.batchLane {s : State} (h : Inv s) (hwait : s.coord.cst = .wait) {l : Nat} (hl : l < s.cfg.workers) {L : Lane}
    (hL : s.lanes[l]? = some L) : BatchLane s.cfg L := by
  have r := h.run (by simp [hwait])
  simpa [hl] using r.batch hwait l L hL

section
variable {c : CfgRegs} {L : Lane}

/-- Only a running lane stands at the END: a lane that is done stands at the start, and a faulted one at a draw. -/
theorem BatchLane.run_of_closing (hb : BatchLane c L) (hpos : L.upc.toNat + 1 = trialLength c) : L.lrun = .run := by
  cases hrun : L.lrun with
  | run => rfl
  | idle => exact absurd hrun hb.dispatched
  | done =>
    obtain ⟨-, hupc, -⟩ := hb.done hrun
    have hstart : L.upc.toNat = 0 := by rw [hupc]; rfl
    have hlen := trialLength_ge c
    omega
  | fault =>
    obtain ⟨-, -, hne⟩ := hb.faulted hrun
    exact absurd hpos hne

theorem BatchLane.mc_le_or_closing (hb : BatchLane c L) :
    L.mc.toNat ≤ L.tc.toNat ∨
      (L.lrun = .run ∧ (trialProgram c)[L.upc.toNat]? = some .endUop ∧ L.mc.toNat = L.tc.toNat + 1) := by
  by_cases hpos : L.upc.toNat + 1 = trialLength c
  · have hmc := hb.closing hpos
    rcases Nat.lt_or_ge L.tc.toNat L.mc.toNat with hlt | hle
    · exact .inr ⟨hb.run_of_closing hpos, trialProgram_last hpos, by omega⟩
    · exact .inl hle
  · exact .inl (hb.counted hpos)

/-- After its END a lane of the batch stands at the start of the list, where no match is ahead of its trial. -/
theorem BatchLane.endTrial_mc_le (hb : BatchLane c L) (hr : Runs c L .endUop) (l : Nat) :
    (L.endTrial c.trials (.program l)).mc.toNat ≤ (L.endTrial c.trials (.program l)).tc.toNat := by
  have hstart : (L.endTrial c.trials (.program l)).upc.toNat = 0 := by
    rw [Lane.endTrial_program _ _ hr.running]
    rfl
  have hlen := trialLength_ge c
  exact (hb.endTrial (l := l) hr).counted (by omega)

end

/-- Settles O60, by what the invariant says of a lane of the batch. -/
theorem matchesExceedTrialsOnlyBeforeEnd : Obligations.MatchesExceedTrialsOnlyBeforeEnd := by
  unfold Obligations.MatchesExceedTrialsOnlyBeforeEnd
  refine ⟨fun s t a mask hs ht htick ha => ?_, fun s l L hinv hwait hl hL => ?_⟩
  · rw [regRead_window_of_busy hs ha, regRead_window_of_busy ht ha, htick]
  · have hb := hinv.batchLane hwait hl hL
    refine ⟨hb.mc_le_or_closing, fun hjoin => ?_, fun hrun hend => ?_⟩
    · rcases hb.mc_le_or_closing with hle | ⟨hrun, -, -⟩
      · exact hle
      · have hended := s.joinReady_eq_true_iff.mp hjoin l L hl hL
        simp [hrun] at hended
    · obtain ⟨hlegal, -⟩ := startRefusal_eq_none_iff.mp (hinv.run (by simp [hwait])).legal
      have hr : Runs s.cfg L .endUop := ⟨hrun, hlegal, hend⟩
      have hx := exec_endUop (s := s.issuedFrom (.program l)) (L := L) hL
      exact ⟨_, _, (laneStep_of_runs hL hr).trans hx, State.lane_putLane_same _ l L _ hL, hb.endTrial_mc_le hr l⟩

end Sys2Proof.Machine
end

section
/-! ## The turn of a running lane, and the length of the trial program (R210 to R214) -/

namespace Sys2Proof.Machine

/-- Settles O31: the micro-op at the micro-PC is the one the turn runs. -/
theorem laneStepRunsTheProgramWord : Obligations.LaneStepRunsTheProgramWord := by
  unfold Obligations.LaneStepRunsTheProgramWord
  intro s l L i hturn hL hrun hrounds hfetched
  have hruns : Runs s.cfg L i := ⟨hrun, decide_eq_true hrounds, hfetched⟩
  exact (step_of_lane hturn).trans (laneStep_of_runs (s := s.takeTurn) hL hruns)

/-! ### Length (R213) -/

theorem length_trialWords (c : CfgRegs) : (trialWords c).length = trialLength c := by
  rw [trialWords, List.length_map, length_trialProgram]

/-- Longest with no round before the sample point: a round there has two words, one after it four (R213). -/
theorem trialLength_le_546 (c : CfgRegs) : trialLength c ≤ 546 := by
  have hf := c.fint_lt
  have hr := c.rint_lt
  have h1 := c.ffrac.toNat_le
  have h2 := c.rfrac.toNat_le
  have h3 := c.tailen.toNat_le
  unfold trialLength CfgRegs.bwdRound
  omega

/-- The length depends on the round descriptor and `MODE` alone. -/
theorem trialLength_eq {c d : CfgRegs} (hrounds : c.rounds = d.rounds) (hmode : c.mode = d.mode) :
    trialLength c = trialLength d := by
  simp only [trialLength, CfgRegs.bwdRound, CfgRegs.rint, CfgRegs.rfrac, CfgRegs.fint, CfgRegs.ffrac, CfgRegs.tailen,
    hrounds, hmode]

/-- An example: the length for the values of `ROUNDS` and `MODE`, whatever the rest of the configuration is. -/
theorem length_trialWords_of {c : CfgRegs} {rounds mode : Word} {n : Nat} (hrounds : c.rounds = rounds)
    (hmode : c.mode = mode) (hn : trialLength { CfgRegs.reset 1 with rounds := rounds, mode := mode } = n) :
    (trialWords c).length = n :=
  (length_trialWords c).trans ((trialLength_eq hrounds hmode).trans hn)

/-- Settles O34: the formula is `trialLength`, and the examples are its values. -/
theorem trialProgramLength : Obligations.TrialProgramLength := by
  unfold Obligations.TrialProgramLength
  refine ⟨length_trialWords, fun c _ => ?bounds, fun c hr hm => ?shortest, fun c hr hm => ⟨?legal, ?longest⟩,
    fun c hr hm => ?_, fun c hr hm => ?_, fun c hr hm => ?_, fun c hr => ⟨fun hm => ?_, fun hm => ?_⟩⟩
  case bounds =>
    rw [length_trialWords]
    exact ⟨trialLength_ge c, trialLength_le_546 c⟩
  case legal =>
    simp only [CfgRegs.roundsLegal, CfgRegs.rint, CfgRegs.rfrac, CfgRegs.fint, CfgRegs.ffrac, hr]
    decide
  all_goals exact length_trialWords_of hr hm (by decide)

/-! ### Words (R210, R211) -/

/-- The list depends on five fields of the configuration alone (R210). -/
theorem trialProgram_congr {c d : CfgRegs} (hrint : c.rint = d.rint) (hrfrac : c.rfrac = d.rfrac)
    (hfint : c.fint = d.fint) (hffrac : c.ffrac = d.ffrac) (htailen : c.tailen = d.tailen) :
    trialProgram c = trialProgram d := by
  simp only [trialProgram, segToSample, segToEnd, segBackward, CfgRegs.bwdRound, CfgRegs.fwdOrd, CfgRegs.totalOrd,
    hrint, hrfrac, hfint, hffrac, htailen]

/-- Settles O35: the body holds neither MATCH nor END, and the words of well-formed micro-ops decode to them. -/
theorem trialProgramEndsOnceAndIsLegal : Obligations.TrialProgramEndsOnceAndIsLegal := by
  unfold Obligations.TrialProgramEndsOnceAndIsLegal
  refine ⟨fun c => ⟨trialBody c, trialProgram_eq_body c, fun hend => ?_, fun hmatch => ?_⟩, fun c n i hi => ?_,
    fun c d hrint hrfrac hfint hffrac htailen => ?_⟩
  · obtain ⟨-, -, hne⟩ := bodyOp_of_mem_trialBody c _ hend
    exact hne rfl
  · obtain ⟨-, hne, -⟩ := bodyOp_of_mem_trialBody c _ hmatch
    exact hne rfl
  · exact ⟨encode i, by simp [trialWords, hi],
      decode_encode (wellFormed_of_mem_trialProgram (List.mem_of_getElem? hi))⟩
  · exact congrArg (List.map encode) (trialProgram_congr hrint hrfrac hfint hffrac htailen)

end Sys2Proof.Machine
end

section
/-! ## What a trial is in two special cases: an empty input difference, and the key flip (R218 to R221) -/

namespace Sys2Proof.Machine

theorem maskedParity_xorState_self (omsk S : State16) : maskedParity omsk (xorState S S) = false := by
  rw [maskedParity_xorState, Bool.xor_self]

/-- Settles O37: without a difference both copies of the trial are the same, and so their XOR is 0. -/
theorem zeroDifferenceAlwaysMatches : Obligations.ZeroDifferenceAlwaysMatches := by
  unfold Obligations.ZeroDifferenceAlwaysMatches
  intro c iv K hidm
  simp only [trial, xorState_of_zero hidm, maskedParity_xorState_self, and_self]

/-! ### The key flip (R220) -/

theorem CfgRegs.kb_lt (c : CfgRegs) : c.kb < 32 := (c.target.extractLsb' 0 5).isLt

/-- Toggling a bit that is 0 adds its power of two: no carry arises. -/
theorem toggleBit_of_getBit_false {w : Word} {b : Nat} (h : getBit w b = false) : toggleBit w b = w + 1#32 <<< b := by
  have hand : w &&& BitVec.twoPow 32 b = 0#32 := by
    rw [BitVec.and_twoPow, show w.getLsbD b = false from h, if_neg Bool.false_ne_true]
  rw [toggleBit_eq_xor_twoPow, ← BitVec.twoPow_eq, BitVec.add_eq_or_of_and_eq_zero _ _ hand]
  refine BitVec.eq_of_getLsbD_eq fun i _ => ?_
  have hbit := congrArg (BitVec.getLsbD · i) hand
  simp only [BitVec.getLsbD_and, BitVec.getLsbD_zero] at hbit
  rw [BitVec.getLsbD_xor, BitVec.getLsbD_or]
  grind

/-- What a key word loses when its bit `b` is toggled. -/
theorem sub_toggleBit (w : Word) {b : Nat} (hb : b < 32) :
    w - toggleBit w b = if getBit w b then 1#32 <<< b else -(1#32 <<< b) := by
  cases hbit : getBit w b with
  | false => rw [toggleBit_of_getBit_false hbit, if_neg Bool.false_ne_true, sub_add_cancel_left]
  | true =>
    have hclear : getBit (toggleBit w b) b = false := by rw [getBit_toggleBit_same w hb, hbit]; rfl
    have hback := toggleBit_of_getBit_false hclear
    rw [toggleBit_toggleBit] at hback
    rw [if_pos rfl]
    exact sub_eq_iff_eq_add'.mpr hback

/-- The position in a state of key word `j`: the lower half one place up, the upper half seven (R22). -/
def keyPosition (j : Nat) : Nat := if j ≤ 3 then 1 + j else 7 + j

theorem keyPosition_inj {j k : Nat} : keyPosition j = keyPosition k ↔ j = k := by
  unfold keyPosition
  split_ifs <;> omega

theorem keyPosition_add_four {j : Nat} (hj : j ≤ 3) : keyPosition (j + 4) = 11 + j := by
  rw [keyPosition, if_neg (by omega)]
  omega

/-- The key positions are 1 to 4 and 11 to 14. -/
theorem exists_eq_keyPosition_iff {i : Nat} :
    (∃ j < 8, i = keyPosition j) ↔ 1 ≤ i ∧ i ≤ 4 ∨ 11 ≤ i ∧ i ≤ 14 := by
  refine ⟨?_, ?_⟩
  · rintro ⟨j, hj, rfl⟩
    unfold keyPosition
    split_ifs <;> omega
  · rintro (hlow | hhigh)
    · exact ⟨i - 1, by omega, by rw [keyPosition, if_pos (by omega)]; omega⟩
    · exact ⟨i - 7, by omega, by rw [keyPosition, if_neg (by omega)]; omega⟩

/-- `insertKey` puts each key word at its position (R145). -/
theorem getElem_insertKey_keyPosition (S : State16) (K : KeyWords) {i j : Nat} (hi : i < 16) (hj : j < 8)
    (hij : i = keyPosition j) : (insertKey S K)[i] = K[j] := by
  subst hij
  interval_cases j <;> simp [getElem_insertKey, keyPosition]

/-- Off the key positions `insertKey` keeps the word (R145). -/
theorem getElem_insertKey_off (S : State16) (K : KeyWords) {i : Nat} (hi : i < 16)
    (h : ¬ (1 ≤ i ∧ i ≤ 4 ∨ 11 ≤ i ∧ i ≤ 14)) : (insertKey S K)[i] = S[i] := by
  obtain ⟨hlow, hhigh⟩ := not_or.mp h
  rw [getElem_insertKey, dif_neg hlow, dif_neg hhigh]

theorem kw_le_of_not_badTarget {c : CfgRegs} (hgood : badTarget c = false) (hkey : c.key128 = true) : c.kw.val ≤ 3 := by
  simpa [badTarget, hkey, Nat.lt_succ_iff] using hgood

/-- What key word `j` loses in TGLK (R192, R220). -/
def keyLoss (c : CfgRegs) (K : KeyWords) (j : Nat) : Word :=
  if j = c.kw.val ∨ c.key128 = true ∧ j = c.kw.val + 4 then
    if getBit K[c.kw] c.kb then 1#32 <<< c.kb else -(1#32 <<< c.kb)
  else 0

theorem sub_toggleTarget {c : CfgRegs} {K : KeyWords} (hgood : badTarget c = false)
    (hrep : c.key128 = true → Replicated K) (j : Nat) (hj : j < 8) :
    K[j] - (toggleTarget c K)[j] = keyLoss c K j := by
  rw [getElem_toggleTarget hgood, keyLoss]
  split
  next htoggled =>
    have hword : K[j] = K[c.kw] := by
      rcases htoggled with rfl | ⟨hkey, rfl⟩
      · rfl
      · exact hrep hkey ⟨c.kw.val, by omega⟩
    rw [sub_toggleBit _ c.kb_lt, hword]
  next => exact BitVec.sub_self _

/-- The word at a key position, after the sum with the start `X0'` and the difference with its flipped key. -/
theorem sum_flip_at_key {c : CfgRegs} {X0 : State16} {K : KeyWords} (hgood : badTarget c = false)
    (hkey : insertKey X0 K = X0) (hrep : c.key128 = true → Replicated K) (x X0' : State16) {i j : Nat} (hi : i < 16)
    (hj : j < 8) (hij : i = keyPosition j) :
    (subState (addState x X0') (insertKey X0' (toggleTarget c K)))[i] = x[i] + keyLoss c K j + (X0'[i] - X0[i]) := by
  have hword (S : State16) (K : KeyWords) : (insertKey S K)[i] = K[j] := getElem_insertKey_keyPosition S K hi hj hij
  have hX0 : X0[i] = K[j] := by rw [← hword X0 K, hkey]
  rw [getElem_subState, getElem_addState, hword, ← sub_toggleTarget hgood hrep j hj, hX0]
  ring

theorem sum_flip_off_key (x X0' : State16) (K : KeyWords) {i : Nat} (hi : i < 16)
    (h : ¬ (1 ≤ i ∧ i ≤ 4 ∨ 11 ≤ i ∧ i ≤ 14)) : (subState (addState x X0') (insertKey X0' K))[i] = x[i] := by
  rw [getElem_subState, getElem_addState, getElem_insertKey_off X0' K hi h, BitVec.add_sub_cancel]

/-- The positions that TGLK and INSKEY change are those of the key words that TGLK toggles (R192, R220). -/
theorem flipped_position_iff {c : CfgRegs} (hgood : badTarget c = false) {i j : Nat} (hij : i = keyPosition j) :
    (i = keyPosition c.kw.val ∨ c.key128 = true ∧ i = 11 + c.kw.val) ↔
      (j = c.kw.val ∨ c.key128 = true ∧ j = c.kw.val + 4) := by
  refine or_congr (hij ▸ keyPosition_inj) (and_congr_right fun hkey => ?_)
  rw [hij, ← keyPosition_add_four (kw_le_of_not_badTarget hgood hkey), keyPosition_inj]

/-- Settles O38, at a key position by the key word that stands there, elsewhere by cancellation. -/
theorem keyFlipAlgebra : Obligations.KeyFlipAlgebra := by
  unfold Obligations.KeyFlipAlgebra
  intro c x x' X0 X0' K hgood hkey hrep flipped p δ isKey i
  by_cases hi : isKey i
  · obtain ⟨j, hj, hij⟩ := exists_eq_keyPosition_iff.mpr hi
    have hδ : δ i = keyLoss c K j := if_congr (flipped_position_iff hgood hij) rfl rfl
    have hsame := sum_flip_at_key hgood hkey hrep x X0 i.isLt hj hij
    rw [sub_self, add_zero] at hsame
    rw [hδ]
    exact ⟨hsame, fun _ => sum_flip_at_key hgood hkey hrep x' X0' i.isLt hj hij, fun h => absurd hi h⟩
  · have hδ : δ i = 0 := by
      refine if_neg ?_
      rintro (hp | ⟨h128, hp⟩)
      · exact hi (exists_eq_keyPosition_iff.mp ⟨c.kw.val, c.kw.isLt, hp⟩)
      · have hkw := kw_le_of_not_badTarget hgood h128
        exact hi (.inr (by omega))
    refine ⟨?_, fun h => absurd h hi, fun _ => sum_flip_off_key x' X0' _ i.isLt hi⟩
    rw [hδ, add_zero]
    exact sum_flip_off_key x X0 _ i.isLt hi

end Sys2Proof.Machine
end

section
/-! ## Turns of one lane in a row (R214) -/

namespace Sys2Proof.Machine

/-- The micro-ops `p`, run one after the other on lane `l` from its micro-PC on, take the lane from `L` to `N`. -/
inductive LaneRuns (c : CfgRegs) (l : Nat) : List Instr → Lane → Lane → Prop
  | nil (L : Lane) : LaneRuns c l [] L L
  | cons {i : Instr} {p : List Instr} {L M N : Lane} (runs : Runs c L i)
      (meaning : ∀ s, Sees s c (.program l) L → exec i s = .next (s.putLane l M)) (rest : LaneRuns c l p M N) :
      LaneRuns c l (i :: p) L N

theorem LaneRuns.append {c : CfgRegs} {l : Nat} {p q : List Instr} {L M N : Lane} (hp : LaneRuns c l p L M)
    (hq : LaneRuns c l q M N) : LaneRuns c l (p ++ q) L N := by
  induction hp with
  | nil => exact hq
  | cons runs meaning _ ih => exact .cons runs meaning (ih hq)

/-- `t` is `s` after turns of lane `l` only: the other turns `rest` are still to come. -/
structure AfterTurnsOf (l : Nat) (rest : List Agent) (s t : State) : Prop where
  only : OnlyLane l { s with inp := t.inp } t
  sched : t.inp.sched = rest
  hostq : t.inp.hostq = s.inp.hostq

theorem core_run_succ {s t : State} (h : step s = .next t) (n : Nat) :
    Host.Core.run core (n + 1) s = Host.Core.run core n t := by
  have hcore : core.step s = .next t := h
  simp only [Host.Core.run, hcore]

/-- The turns of lane `l` that run `p` (R214): nothing changes but that lane and the turns used up. -/
theorem run_of_laneRuns {c : CfgRegs} {l : Nat} {p : List Instr} {L N : Lane} (h : LaneRuns c l p L N) {s : State}
    {rest : List Agent} (hc : s.cfg = c) (hL : s.lanes[l]? = some L)
    (hsched : s.inp.sched = List.replicate p.length (.lane l) ++ rest) :
    ∃ t, Host.Core.run core p.length s = .next t ∧ t.lanes[l]? = some N ∧ AfterTurnsOf l rest s t := by
  induction h generalizing s with
  | nil L => exact ⟨s, rfl, hL, ⟨rfl, rfl, rfl, rfl, rfl, rfl, fun _ _ => rfl⟩, hsched, rfl⟩
  | @cons i p L M N runs meaning _ ih =>
    have hturn : s.nextAgent = .lane l := by simp [State.nextAgent, hsched, List.replicate_succ]
    let s₁ := (s.takeTurn.issuedFrom (.program l)).putLane l M
    have hstep : step s = .next s₁ := by
      have hruns : Runs s.takeTurn.cfg L i := hc ▸ runs
      rw [step_of_lane hturn, laneStep_of_runs (s := s.takeTurn) hL hruns]
      exact meaning _ ⟨hc, rfl, hL⟩
    have hL₁ : s₁.lanes[l]? = some M := State.lane_putLane_same _ l L M hL
    have hsched₁ : s₁.inp.sched = List.replicate p.length (.lane l) ++ rest := by
      simp [s₁, hsched, List.replicate_succ]
    obtain ⟨t, hrun, hN, honly, hrest, hhostq⟩ := ih (s := s₁) hc hL₁ hsched₁
    refine ⟨t, (core_run_succ hstep _).trans hrun, hN, ?_, hrest, hhostq⟩
    exact { honly with
      count := honly.count.trans (State.length_putLane _ l M)
      others := fun m hm => (honly.others m hm).trans (State.lane_putLane_ne _ M hm) }

end Sys2Proof.Machine
end

section
/-! ## Running the trial program is the trial (R218)

The list is two draws, a stretch of micro-ops that neither draw nor fault, and END. Along the stretch the lane is a fold of
`Lane.leftBy`, its micro-PC aside; each pipeline segment there applies one function to two registers (`Applies`), which is
the function R218 gives for it, and the micro-ops between the segments are evaluated on the register file. -/

namespace Sys2Proof.Machine

/-! ### What the micro-ops that do not draw leave of a lane -/

/-- The lane a micro-op leaves, its micro-PC aside, when it draws nothing and takes no fault. DRAWK and INITC RND, which
draw, and END, which sets the micro-PC itself, are apart. -/
def Lane.leftBy (c : CfgRegs) (L : Lane) : Instr → Lane
  | .tglk => { L with k := toggleTarget c L.k }
  | .matchUop => L.countMatch
  | .copy d r => L.putReg d (L.reg r)
  | .add z a b => L.putReg z (addState (L.reg a) (L.reg b))
  | .sub z a b => L.putReg z (subState (L.reg a) (L.reg b))
  | .xor z a b => L.putReg z (xorState (L.reg a) (L.reg b))
  | .arx r rot o => L.putReg r (arxStep (L.reg r) rot o)
  | .uarx18 r => L.putReg r (uarx18 c.umode (L.reg r))
  | .hr1 r o => L.putReg r (hr1 (L.reg r) o)
  | .hr2 r o => L.putReg r (hr2 (L.reg r) o)
  | .bhr1 r o => L.putReg r (bhr1 (L.reg r) o)
  | .bhr2 r o => L.putReg r (bhr2 (L.reg r) o)
  | .fround r idx => L.putReg r (fround (L.reg r) idx)
  | .bround r idx => L.putReg r (bround (L.reg r) idx)
  | .initc r .fix => L.putReg r (initConstIv c.keyMode c.ivfix (L.reg r))
  | .inskey r => L.putReg r (insertKey (L.reg r) L.k)
  | .inj r => L.putReg r (xorState (L.reg r) c.idm)
  | .par r side => L.putFlag side (maskedParity c.omsk (L.reg r))
  | .drawk | .initc _ .rnd | .endUop => L

/-- A micro-op that draws nothing and is not END. -/
def Quiet (i : Instr) : Prop := i.draws = false ∧ i ≠ .endUop

theorem exec_quiet {i : Instr} {s : State} {L : Lane} (h : IssuedOn s L) (hi : Quiet i)
    (hgood : badTarget s.cfg = false) : exec i s = .next (retire s (L.leftBy s.cfg i)) := by
  obtain ⟨hdraws, hend⟩ := hi
  cases i with
  | drawk => cases hdraws
  | endUop => exact absurd rfl hend
  | initc r f =>
    cases f with
    | fix => exact exec_initc_fix h r
    | rnd => cases hdraws
  | tglk => exact exec_tglk_good h hgood
  | matchUop => exact exec_matchUop h
  | copy d r => exact exec_copy h d r
  | add z a b => exact exec_add h z a b
  | sub z a b => exact exec_sub h z a b
  | xor z a b => exact exec_xor h z a b
  | arx r rot o => exact exec_arx h r rot o
  | uarx18 r => exact exec_uarx18 h r
  | hr1 r o => exact exec_hr1 h r o
  | hr2 r o => exact exec_hr2 h r o
  | bhr1 r o => exact exec_bhr1 h r o
  | bhr2 r o => exact exec_bhr2 h r o
  | fround r idx => exact exec_fround h r idx
  | bround r idx => exact exec_bround h r idx
  | inskey r => exact exec_inskey h r
  | inj r => exact exec_inj h r
  | par r side => exact exec_par h r side

/-- The lane with its micro-PC at index `n` of the list. -/
def Lane.atIndex (L : Lane) (n : Nat) : Lane := { L with upc := BitVec.ofNat 12 n }

theorem Lane.reg_atIndex (L : Lane) (n : Nat) (r : SReg) : (L.atIndex n).reg r = L.reg r := rfl

theorem Lane.putReg_atIndex (L : Lane) (n : Nat) (r : SReg) (v : State16) :
    (L.atIndex n).putReg r v = (L.putReg r v).atIndex n := rfl

theorem Lane.putFlag_atIndex (L : Lane) (n : Nat) (side : Side) (p : Bool) :
    (L.atIndex n).putFlag side p = (L.putFlag side p).atIndex n := by
  cases side <;> rfl

theorem Lane.countMatch_eq (L : Lane) : L.countMatch = { L with mc := if L.fp = L.bp then L.mc + 1 else L.mc } := by
  by_cases h : L.fp = L.bp <;> simp [Lane.countMatch, Lane.flagsMatch, h]

/-- What a micro-op leaves does not depend on the micro-PC. -/
theorem Lane.leftBy_atIndex (L : Lane) (c : CfgRegs) (n : Nat) (i : Instr) :
    (L.atIndex n).leftBy c i = (L.leftBy c i).atIndex n := by
  cases i with
  | drawk | tglk | endUop => rfl
  | matchUop =>
    simp only [Lane.leftBy, Lane.countMatch_eq]
    rfl
  | par r side => simp only [Lane.leftBy, Lane.reg_atIndex, Lane.putFlag_atIndex]
  | initc r f => cases f <;> rfl
  | inskey r => rfl
  | _ => simp only [Lane.leftBy, Lane.reg_atIndex, Lane.putReg_atIndex]

theorem Lane.leftBy_lrun (L : Lane) (c : CfgRegs) (i : Instr) : (L.leftBy c i).lrun = L.lrun := by
  cases i with
  | matchUop => exact L.countMatch_lrun
  | par r side => exact L.putFlag_lrun side _
  | initc r f => cases f <;> rfl
  | _ => rfl

theorem Lane.advance_atIndex (L : Lane) (n l : Nat) : (L.atIndex n).advance (.program l) = L.atIndex (n + 1) := by
  simp [Lane.advance, Lane.atIndex, BitVec.ofNat_add]

/-- END sets the micro-PC itself. -/
theorem Lane.endTrial_atIndex {L : Lane} (n : Nat) (trials : Word64) (l : Nat) (h : L.lrun = .run) :
    (L.atIndex n).endTrial trials (.program l) = L.endTrial trials (.program l) := by
  have hrun : (L.atIndex n).lrun = .run := h
  rw [Lane.endTrial_program trials l h, Lane.endTrial_program trials l hrun]
  rfl

/-- A running lane at the index of `i` in the list runs `i`. -/
theorem runs_atIndex {c : CfgRegs} {L : Lane} {pre post : List Instr} {i : Instr}
    (hprogram : trialProgram c = pre ++ i :: post) (hlegal : c.roundsLegal = true) (hrun : L.lrun = .run) :
    Runs c (L.atIndex pre.length) i where
  running := hrun
  legal := hlegal
  fetched := by
    have hlen := trialLength_le c
    rw [← length_trialProgram, hprogram, List.length_append] at hlen
    have hupc : (L.atIndex pre.length).upc.toNat = pre.length := by
      simp only [Lane.atIndex, BitVec.toNat_ofNat]
      omega
    rw [hupc, hprogram]
    simp

/-- The turn of a micro-op that completes and leaves the lane `M`, its micro-PC aside; and then the turns of `p`. -/
theorem LaneRuns.cons_of_retire {c : CfgRegs} {l : Nat} {pre post p : List Instr} {i : Instr} {L M N : Lane}
    (hprogram : trialProgram c = pre ++ i :: post) (hlegal : c.roundsLegal = true) (hrun : L.lrun = .run)
    (hmeaning : ∀ s, Sees s c (.program l) (L.atIndex pre.length) → exec i s = .next (retire s (M.atIndex pre.length)))
    (hrest : LaneRuns c l p (M.atIndex (pre.length + 1)) N) : LaneRuns c l (i :: p) (L.atIndex pre.length) N := by
  refine .cons (runs_atIndex hprogram hlegal hrun) (fun s hs => ?_) hrest
  rw [hmeaning s hs, retire, hs.issue, Lane.advance_atIndex]
  rfl

/-- A stretch of the list without draws and END leaves the lane as its micro-ops do one after the other. -/
theorem laneRuns_quiet {c : CfgRegs} (l : Nat) {ops pre post : List Instr} {L : Lane}
    (hprogram : trialProgram c = pre ++ ops ++ post) (hquiet : ∀ i ∈ ops, Quiet i) (hlegal : c.roundsLegal = true)
    (hgood : badTarget c = false) (hrun : L.lrun = .run) :
    LaneRuns c l ops (L.atIndex pre.length) ((ops.foldl (Lane.leftBy c) L).atIndex (pre ++ ops).length) := by
  induction ops generalizing pre L with
  | nil => simpa using LaneRuns.nil _
  | cons i ops ih =>
    have hi := hquiet i List.mem_cons_self
    have hrest := ih (pre := pre ++ [i]) (L := L.leftBy c i) (by simpa using hprogram)
      (fun j hj => hquiet j (List.mem_cons_of_mem i hj)) ((L.leftBy_lrun c i).trans hrun)
    refine .cons_of_retire (post := ops ++ post) (by simpa using hprogram) hlegal hrun (fun s hs => ?_)
      (by simpa using hrest)
    rw [exec_quiet hs.lane hi (hs.cfg ▸ hgood), hs.cfg, Lane.leftBy_atIndex]

/-! ### Segments that do the same to two registers (R211) -/

/-- The lane with `f` applied to the registers `p` and `q`. -/
def Lane.applyBoth (L : Lane) (p q : SReg) (f : State16 → State16) : Lane :=
  (L.putReg p (f (L.reg p))).putReg q (f (L.reg q))

theorem Lane.applyBoth_id (L : Lane) (p q : SReg) : L.applyBoth p q id = L := by
  simp [Lane.applyBoth, Lane.putReg, Lane.reg]

theorem Lane.applyBoth_applyBoth (L : Lane) (p q : SReg) (f g : State16 → State16) :
    (L.applyBoth p q f).applyBoth p q g = L.applyBoth p q (g ∘ f) := by
  cases p <;> cases q <;> rfl

/-- The micro-ops `seg` draw nothing, do not end the trial, and together apply `f` to the registers `p` and `q`. -/
structure Applies (c : CfgRegs) (p q : SReg) (seg : List Instr) (f : State16 → State16) : Prop where
  quiet : ∀ i ∈ seg, Quiet i
  foldl : ∀ L, seg.foldl (Lane.leftBy c) L = L.applyBoth p q f

section
variable {c : CfgRegs} {p q : SReg} {seg seg' : List Instr} {f g : State16 → State16}

theorem Applies.nil : Applies c p q [] id where
  quiet := List.forall_mem_nil _
  foldl L := by rw [List.foldl_nil, Lane.applyBoth_id]

theorem Applies.append (hf : Applies c p q seg f) (hg : Applies c p q seg' g) :
    Applies c p q (seg ++ seg') (g ∘ f) where
  quiet := List.forall_mem_append.mpr ⟨hf.quiet, hg.quiet⟩
  foldl L := by rw [List.foldl_append, hf.foldl, hg.foldl, L.applyBoth_applyBoth]

theorem Applies.segmentIf (hf : Applies c p q seg f) (present : Bool) :
    Applies c p q (segmentIf present seg) (applyIf present f) := by
  cases present with
  | false => exact .nil
  | true => exact hf

/-- One segment for each round index, in the order given. -/
theorem Applies.flatMap {mk : Nat → List Instr} {fs : State16 → Nat → State16}
    (hf : ∀ n, Applies c p q (mk n) (fs · n)) (idxs : List Nat) :
    Applies c p q (idxs.flatMap mk) (fun S => idxs.foldl fs S) := by
  induction idxs with
  | nil => exact .nil
  | cons n idxs ih => exact (hf n).append ih

/-- The same micro-op for each of the two registers. -/
theorem applies_onBoth {mk : SReg → Instr} (hpq : p ≠ q) (hquiet : ∀ r, Quiet (mk r))
    (hf : ∀ r (L : Lane), L.leftBy c (mk r) = L.putReg r (f (L.reg r))) : Applies c p q (onBoth mk p q) f where
  quiet := by
    intro i hi
    rcases List.mem_pair.mp hi with rfl | rfl <;> exact hquiet _
  foldl L := by simp [onBoth, hf, Lane.applyBoth, Lane.reg_putReg_ne _ _ hpq.symm]

variable (c) (hpq : p ≠ q) (o : Ord)
include hpq

theorem applies_arx (r : Rot) : Applies c p q (onBoth (fun s => .arx s r o) p q) (arxStep · r o) :=
  applies_onBoth hpq (fun _ => ⟨rfl, nofun⟩) fun _ _ => rfl

theorem applies_uarx18 : Applies c p q (onBoth .uarx18 p q) (uarx18 c.umode) :=
  applies_onBoth hpq (fun _ => ⟨rfl, nofun⟩) fun _ _ => rfl

theorem applies_hr1 : Applies c p q (onBoth (fun s => .hr1 s o) p q) (hr1 · o) :=
  applies_onBoth hpq (fun _ => ⟨rfl, nofun⟩) fun _ _ => rfl

theorem applies_hr2 : Applies c p q (onBoth (fun s => .hr2 s o) p q) (hr2 · o) :=
  applies_onBoth hpq (fun _ => ⟨rfl, nofun⟩) fun _ _ => rfl

theorem applies_bhr1 : Applies c p q (onBoth (fun s => .bhr1 s o) p q) (bhr1 · o) :=
  applies_onBoth hpq (fun _ => ⟨rfl, nofun⟩) fun _ _ => rfl

theorem applies_bhr2 : Applies c p q (onBoth (fun s => .bhr2 s o) p q) (bhr2 · o) :=
  applies_onBoth hpq (fun _ => ⟨rfl, nofun⟩) fun _ _ => rfl

theorem applies_fround (n : Nat) : Applies c p q (onBoth (fun s => .fround s n) p q) (fround · n) :=
  applies_onBoth hpq (fun _ => ⟨rfl, nofun⟩) fun _ _ => rfl

theorem applies_bround (n : Nat) : Applies c p q (onBoth (fun s => .bround s n) p q) (bround · n) :=
  applies_onBoth hpq (fun _ => ⟨rfl, nofun⟩) fun _ _ => rfl

end

/-! ### The pipelines of R218, segment by segment -/

section
variable (c : CfgRegs)

theorem segToSample_applies : Applies c .X .XP (segToSample c) (forwardToSample c) :=
  have hpq : SReg.X ≠ .XP := nofun
  have hrounds := Applies.flatMap (applies_fround c hpq) (ascending 1 c.fint)
  have hhalf := (applies_hr1 c hpq c.fwdOrd).segmentIf c.ffrac
  hrounds.append hhalf

theorem segTail_applies : Applies c .X .XP segTail (tail c.umode) := by
  have hpq : SReg.X ≠ .XP := nofun
  have h := ((applies_hr1 c hpq .even).append (applies_arx c hpq .even .r13)).append (applies_uarx18 c hpq)
  unfold segTail tail
  simpa only [Function.comp_def] using h

theorem segToEnd_applies : Applies c .X .XP (segToEnd c) (forwardToEnd c) :=
  have hpq : SReg.X ≠ .XP := nofun
  have hhalf := (applies_hr2 c hpq c.fwdOrd).segmentIf c.ffrac
  have hrounds := Applies.flatMap (applies_fround c hpq) (ascending (c.bwdRound + 1) c.rint)
  have hlast := (applies_hr1 c hpq c.totalOrd).segmentIf c.rfrac
  have htail := (segTail_applies c).segmentIf c.tailen
  ((hhalf.append hrounds).append hlast).append htail

theorem segTailInverse_applies : Applies c .M .MP segTailInverse (tailInverse c.umode) := by
  have hpq : SReg.M ≠ .MP := nofun
  have h := ((applies_uarx18 c hpq).append (applies_arx c hpq .even .r13)).append (applies_bhr2 c hpq .even)
  unfold segTailInverse tailInverse
  simpa only [Function.comp_def] using h

theorem segBackward_applies : Applies c .M .MP (segBackward c) (backward c) :=
  have hpq : SReg.M ≠ .MP := nofun
  have htail := (segTailInverse_applies c).segmentIf c.tailen
  have hlast := (applies_bhr2 c hpq c.totalOrd).segmentIf c.rfrac
  have hrounds := Applies.flatMap (applies_bround c hpq) (ascending (c.bwdRound + 1) c.rint).reverse
  have hhalf := (applies_bhr1 c hpq c.fwdOrd).segmentIf c.ffrac
  ((htail.append hlast).append hrounds).append hhalf

end

/-! ### The whole list between the draws and END (R211) -/

/-- The first two micro-ops of the list, which draw. -/
def segDraws : List Instr := [.initc .X .rnd, .drawk]

/-- Segments a to c after the draws: the four starts. -/
def segStart : List Instr := [.inskey .X, .copy .XR .X, .copy .XP .X, .inj .XP, .copy .XPR .XP]

/-- Segments s and t without END. -/
def segBwdSample : List Instr := [.xor .D .M .MP, .par .D .bwd, .matchUop]

/-- The list between the draws and END. -/
def trialQuietOps (c : CfgRegs) : List Instr :=
  segStart ++ segToSample c ++ segFwdSample ++ segToEnd c ++ segSumFlip ++ segBackward c ++ segBwdSample

theorem trialProgram_eq_quietOps (c : CfgRegs) :
    trialProgram c = segDraws ++ trialQuietOps c ++ [.endUop] := by
  simp [trialProgram, trialQuietOps, segInit, segDraws, segStart, segClose, segBwdSample]

theorem quiet_of_mem_trialQuietOps (c : CfgRegs) : ∀ i ∈ trialQuietOps c, Quiet i := by
  have hstart : ∀ i ∈ segStart, Quiet i := by simp [segStart, Quiet, Instr.draws]
  have hsample : ∀ i ∈ segFwdSample, Quiet i := by simp [segFwdSample, Quiet, Instr.draws]
  have hsum : ∀ i ∈ segSumFlip, Quiet i := by simp [segSumFlip, Quiet, Instr.draws]
  have hbwd : ∀ i ∈ segBwdSample, Quiet i := by simp [segBwdSample, Quiet, Instr.draws]
  simp only [trialQuietOps, List.forall_mem_append]
  exact ⟨⟨⟨⟨⟨⟨hstart, (segToSample_applies c).quiet⟩, hsample⟩, (segToEnd_applies c).quiet⟩, hsum⟩,
    (segBackward_applies c).quiet⟩, hbwd⟩

/-- The drawn words put in place are the initial state of R218. -/
theorem insertKey_initConstIv (m : KeyMode) (iv : Vector Word 4) (K : KeyWords) (S : State16) :
    insertKey (initConstIv m iv S) K = initialState m iv K := by
  refine state_ext fun i hi => ?_
  interval_cases i <;> simp [insertKey, initConstIv, initialState]

section
variable (c : CfgRegs) (L : Lane)

theorem foldl_leftBy_segStart :
    segStart.foldl (Lane.leftBy c) L =
      { L with sr := { L.sr with
          x := insertKey L.sr.x L.k, xr := insertKey L.sr.x L.k
          xp := xorState (insertKey L.sr.x L.k) c.idm, xpr := xorState (insertKey L.sr.x L.k) c.idm } } := by
  simp only [segStart, List.foldl_cons, List.foldl_nil, Lane.leftBy, Lane.putReg, Lane.reg, SRFile.put, SRFile.get]

theorem foldl_leftBy_segFwdSample :
    segFwdSample.foldl (Lane.leftBy c) L =
      { L with
        sr := { L.sr with d := xorState L.sr.x L.sr.xp }, fp := maskedParity c.omsk (xorState L.sr.x L.sr.xp) } := by
  simp only [segFwdSample, List.foldl_cons, List.foldl_nil, Lane.leftBy, Lane.putReg, Lane.reg, SRFile.put, SRFile.get,
    Lane.putFlag]

theorem foldl_leftBy_segSumFlip :
    segSumFlip.foldl (Lane.leftBy c) L =
      { L with
        k := toggleTarget c L.k
        sr := { L.sr with
          sum := addState L.sr.x L.sr.xr, sump := addState L.sr.xp L.sr.xpr
          xr := insertKey L.sr.xr (toggleTarget c L.k), xpr := insertKey L.sr.xpr (toggleTarget c L.k)
          m := subState (addState L.sr.x L.sr.xr) (insertKey L.sr.xr (toggleTarget c L.k))
          mp := subState (addState L.sr.xp L.sr.xpr) (insertKey L.sr.xpr (toggleTarget c L.k)) } } := by
  simp only [segSumFlip, List.foldl_cons, List.foldl_nil, Lane.leftBy, Lane.putReg, Lane.reg, SRFile.put, SRFile.get]

theorem foldl_leftBy_segBwdSample :
    segBwdSample.foldl (Lane.leftBy c) L =
      { L with
        sr := { L.sr with d := xorState L.sr.m L.sr.mp }, bp := maskedParity c.omsk (xorState L.sr.m L.sr.mp)
        mc := if L.fp = maskedParity c.omsk (xorState L.sr.m L.sr.mp) then L.mc + 1 else L.mc } := by
  simp only [segBwdSample, List.foldl_cons, List.foldl_nil, Lane.leftBy, Lane.putReg, Lane.reg, SRFile.put, SRFile.get,
    Lane.putFlag, Lane.countMatch_eq]

theorem applyBoth_X_XP (f : State16 → State16) :
    L.applyBoth .X .XP f = { L with sr := { L.sr with x := f L.sr.x, xp := f L.sr.xp } } := by
  simp only [Lane.applyBoth, Lane.putReg, Lane.reg, SRFile.put, SRFile.get]

theorem applyBoth_M_MP (f : State16 → State16) :
    L.applyBoth .M .MP f = { L with sr := { L.sr with m := f L.sr.m, mp := f L.sr.mp } } := by
  simp only [Lane.applyBoth, Lane.putReg, Lane.reg, SRFile.put, SRFile.get]

end

/-- The lane `N` holds the parities `T` of a trial and has counted its match; it is otherwise `L`, but for the state
registers and the key. -/
structure HoldsTrial (T : Parities) (L N : Lane) : Prop where
  fp : N.fp = T.fp
  bp : N.bp = T.bp
  mc : N.mc = if T.fp = T.bp then L.mc + 1 else L.mc
  tc : N.tc = L.tc
  lrun : N.lrun = L.lrun
  lf : N.lf = L.lf
  source : KeepsSource L N

/-- The micro-ops between the draws and END do the trial (R218). -/
theorem holdsTrial_trialQuietOps {c : CfgRegs} {iv : Vector Word 4} {K : KeyWords} {L : Lane} (hk : L.k = K)
    (hX : insertKey L.sr.x K = initialState c.keyMode iv K) :
    HoldsTrial (trial c iv K) L ((trialQuietOps c).foldl (Lane.leftBy c) L) := by
  simp only [trialQuietOps, List.foldl_append, foldl_leftBy_segStart, (segToSample_applies c).foldl,
    foldl_leftBy_segFwdSample, (segToEnd_applies c).foldl, foldl_leftBy_segSumFlip, (segBackward_applies c).foldl,
    foldl_leftBy_segBwdSample, applyBoth_X_XP, applyBoth_M_MP, hk, hX, trial]
  exact ⟨rfl, rfl, by dsimp only, rfl, rfl, rfl, rfl, rfl⟩

/-! ### The draws (R144, R146, R150) -/

theorem Lane.answer_moved (L : Lane) (l m n : Nat) : (L.moved m).answer l n = L.answer l (m + n) := by
  simp [Lane.answer, Nat.add_assoc]

/-- The key that DRAWK makes of its draws, in either mode: in 128-bit mode the four words and their replica (R146). -/
theorem drawKey_of_words {c : CfgRegs} {l : Nat} {L : Lane} {K : KeyWords}
    (hK : ∀ j : Fin 8, j.val < c.keyWordCount → L.answer l j = .word K[j]) (hrep : c.key128 = true → Replicated K) :
    drawKey c.key128 l L = (some K, L.moved c.keyWordCount) := by
  cases hkey : c.key128 with
  | false =>
    have hcount : c.keyWordCount = 8 := by simp [CfgRegs.keyWordCount, hkey]
    rw [hcount] at hK ⊢
    exact drawKey_of_answers fun j => hK j j.isLt
  | true =>
    have hcount : c.keyWordCount = 4 := by simp [CfgRegs.keyWordCount, hkey]
    rw [hcount] at hK ⊢
    let half : Vector Word 4 := Vector.ofFn fun j : Fin 4 => K[j.val]
    have hhalf : L.answersWords l half := fun j => by
      simpa [half] using hK ⟨j.val, by omega⟩ j.isLt
    have hfull : half ++ half = K := Vector.ext fun j hj => by
      rcases Nat.lt_or_ge j 4 with hlow | hhigh
      · exact (Vector.getElem_append_left hlow).trans (by simp [half])
      · have hj' := hrep hkey ⟨j - 4, by omega⟩
        simp only [Nat.sub_add_cancel hhigh] at hj'
        exact (Vector.getElem_append_right hj hhigh).trans (by simp [half, hj'])
    rw [drawKey_of_answers_key128 hhalf, hfull]

theorem Lane.atIndex_zero {L : Lane} (h : L.upc = 0) : L.atIndex 0 = L :=
  congrArg (fun u => { L with upc := u }) h.symm

/-- The source of lane `l` has the words of a trial in store: the IV `iv` and then the key `K`, the lower half of it in
128-bit mode (R144, R146). -/
structure HoldsDraws (c : CfgRegs) (l : Nat) (L : Lane) (iv : Vector Word 4) (K : KeyWords) : Prop where
  iv : L.answersWords l iv
  key : ∀ j : Fin 8, j.val < c.keyWordCount → L.answer l (4 + j) = .word K[j]
  replica : c.key128 = true → Replicated K

/-- The lane after the draws of a trial: the IV `iv` and the constants in `X`, the key `K`, the source moved on. -/
def Lane.afterDraws (c : CfgRegs) (iv : Vector Word 4) (K : KeyWords) (L : Lane) : Lane :=
  { ((L.moved 4).putReg .X (initConstIv c.keyMode iv (L.reg .X))).moved c.keyWordCount with k := K }

section
variable {c : CfgRegs} {l : Nat} {L : Lane} {iv : Vector Word 4} {K : KeyWords}

/-- The first two turns of a trial draw the IV and the key (R211, segment a). -/
theorem laneRuns_draws (hlegal : c.roundsLegal = true) (hrun : L.lrun = .run) (hdraws : HoldsDraws c l L iv K) :
    LaneRuns c l segDraws (L.atIndex 0) ((L.afterDraws c iv K).atIndex 2) := by
  have hprogram : trialProgram c = [] ++ .initc .X .rnd :: .drawk :: (trialQuietOps c ++ [.endUop]) :=
    trialProgram_eq_quietOps c
  let L₁ := (L.moved 4).putReg .X (initConstIv c.keyMode iv (L.reg .X))
  have hkey : drawKey c.key128 l (L₁.atIndex 1) = (some K, (L₁.atIndex 1).moved c.keyWordCount) :=
    drawKey_of_words (fun j hj => (L.answer_moved l 4 j).trans (hdraws.key j hj)) hdraws.replica
  refine .cons_of_retire hprogram hlegal hrun (M := L₁) (fun s hs => ?_)
    (.cons_of_retire (pre := [.initc .X .rnd]) (M := L.afterDraws c iv K) hprogram hlegal hrun (fun s hs => ?_)
      (.nil _))
  · rw [exec_initc_rnd_words hs.lane .X iv (by rw [hs.issue]; exact hdraws.iv), hs.cfg]
    rfl
  · rw [exec_drawk_some hs.lane (by rw [hs.cfg, hs.issue]; exact hkey)]
    rfl

theorem afterDraws_start : insertKey (L.afterDraws c iv K).sr.x K = initialState c.keyMode iv K :=
  insertKey_initConstIv c.keyMode iv K (L.reg .X)

/-- All turns of a trial: the draws, the micro-ops that do not draw, and END, which closes the trial (R214, R218). -/
theorem laneRuns_trialProgram (hlegal : c.roundsLegal = true) (hgood : badTarget c = false) (hrun : L.lrun = .run)
    (hupc : L.upc = 0) (hdraws : HoldsDraws c l L iv K) :
    ∃ M, HoldsTrial (trial c iv K) (L.afterDraws c iv K) M ∧
      LaneRuns c l (trialProgram c) L (M.endTrial c.trials (.program l)) := by
  let M := (trialQuietOps c).foldl (Lane.leftBy c) (L.afterDraws c iv K)
  have hM : HoldsTrial (trial c iv K) (L.afterDraws c iv K) M := holdsTrial_trialQuietOps rfl afterDraws_start
  have hMrun : M.lrun = .run := hM.lrun.trans hrun
  have hprogram := trialProgram_eq_quietOps c
  have hdrawn : LaneRuns c l segDraws L _ := Lane.atIndex_zero hupc ▸ laneRuns_draws hlegal hrun hdraws
  have hquiet := laneRuns_quiet l hprogram (quiet_of_mem_trialQuietOps c) hlegal hgood (L := L.afterDraws c iv K) hrun
  have hend : LaneRuns c l [.endUop] (M.atIndex (segDraws ++ trialQuietOps c).length)
      (M.endTrial c.trials (.program l)) := by
    refine .cons (runs_atIndex hprogram hlegal hMrun) (fun s hs => ?_) (.nil _)
    rw [exec_endUop hs.lane, hs.cfg, hs.issue, Lane.endTrial_atIndex _ _ _ hMrun]
    rfl
  exact ⟨M, hM, hprogram ▸ (hdrawn.append hquiet).append hend⟩

end

/-- Settles O36: the turns run the list (`run_of_laneRuns`), and the list does the trial (`laneRuns_trialProgram`). -/
theorem trialProgramComputesTheTrial : Obligations.TrialProgramComputesTheTrial := by
  unfold Obligations.TrialProgramComputesTheTrial
  intro s l L rest iv K hL hrun hupc hlegal hgood hsched hiv hK hrep
  obtain ⟨M, hM, hruns⟩ := laneRuns_trialProgram hlegal hgood hrun hupc ⟨hiv, hK, hrep⟩
  rw [← length_trialProgram] at hsched ⊢
  obtain ⟨t, ht, hN, honly, hrest, hhostq⟩ := run_of_laneRuns hruns rfl hL hsched
  obtain ⟨hrng, hdrawn⟩ := hM.source
  have hmoved : SourceMoved (4 + s.cfg.keyWordCount) L M := by
    simp [SourceMoved, hrng, hdrawn, Lane.afterDraws, Nat.add_assoc]
  have hMrun : M.lrun = .run := hM.lrun.trans hrun
  have htc : M.tc = L.tc := hM.tc
  rw [Lane.endTrial_program _ _ hMrun, htc] at hN
  exact ⟨t, _, ht, hN, hM.fp, hM.bp, hM.mc, rfl, rfl, rfl, hM.lf, hmoved, honly.cfg, honly.status, honly.res,
    honly.coord, hrest, hhostq, honly.count, honly.others⟩

end Sys2Proof.Machine
end

section
/-! ## The statements about the coordinator (R240 to R252) -/

namespace Sys2Proof.Machine

/-! ### The coordinator's turn, control state by control state (R240) -/

theorem coordinatorStep_of_scan {s : State} (h : s.coord.cst = .scan) : coordinatorStep s = .next s.scan := by
  simp [coordinatorStep, h]

theorem coordinatorStep_of_prog {s : State} (h : s.coord.cst = .prog) : coordinatorStep s = .next s.countProgress := by
  simp [coordinatorStep, h]

theorem coordinatorStep_of_join {s : State} (h : s.coord.cst = .wait)
    (hready : ∀ L ∈ s.batchLanes, L.lrun = .done ∨ L.lrun = .fault) : coordinatorStep s = s.join := by
  have hjoin : s.joinReady = true := by simpa [State.joinReady] using hready
  simp [coordinatorStep, h, hjoin]

/-! ### Scan and dispatch (R245, R246) -/

theorem CfgRegs.keyBitCount_eq (c : CfgRegs) : c.keyBitCount = if getBit c.mode 0 then 128 else 256 := by
  cases h : getBit c.mode 0 <;> simp [CfgRegs.keyBitCount, CfgRegs.keyWordCount, CfgRegs.key128, h]

section
variable {s : State}

theorem State.scan_of_last (h : s.coord.cidx.toNat = s.cfg.keyBitCount) : s.scan = s.complete := if_pos h

theorem State.scan_of_skipped (h : s.coord.cidx.toNat < s.cfg.keyBitCount)
    (hskip : mapBit s.cfg.skip s.coord.cidx.toNat = true) :
    s.scan = { s with coord := { s.coord with cidx := s.coord.cidx + 1 } } :=
  (if_neg h.ne).trans (if_pos hskip)

theorem State.scan_of_unskipped (h : s.coord.cidx.toNat < s.cfg.keyBitCount)
    (hskip : mapBit s.cfg.skip s.coord.cidx.toNat = false) : s.scan = s.dispatchBatch :=
  (if_neg h.ne).trans (if_neg (by simp [hskip]))

end

/-- Lane `l` of a mapped machine is lane `l` mapped. -/
theorem getElem?_mapLanesFrom_zero {f : Nat → Lane → Lane} {ls : List Lane} {l : Nat} {L : Lane} (h : ls[l]? = some L) :
    (mapLanesFrom f 0 ls)[l]? = some (f l L) := by
  simp [getElem?_mapLanesFrom, h]

/-- Settles O48: the three branches of the scan step, the last of them the dispatch lane by lane. -/
theorem scanStep : Obligations.ScanStep := by
  unfold Obligations.ScanStep
  intro s hscan
  rw [← s.cfg.keyBitCount_eq, coordinatorStep_of_scan hscan]
  refine ⟨fun hlast => congrArg _ (State.scan_of_last hlast), fun hlt hskip => congrArg _ (State.scan_of_skipped hlt hskip),
    fun hlt hskip => ⟨s.dispatchBatch, congrArg _ (State.scan_of_unskipped hlt hskip), rfl, ?_, ?_, ?_, rfl, rfl, rfl, rfl,
      length_mapLanesFrom _ _ _, fun l L hL => ⟨_, getElem?_mapLanesFrom_zero hL, fun hl => ?_, fun hl => ?_⟩⟩⟩
  case refine_1 | refine_2 | refine_3 =>
    have hidx : s.coord.cidx.toNat < 256 := Nat.lt_of_lt_of_le hlt s.cfg.keyBitCount_le
    simp only [CfgRegs.kw_val, CfgRegs.kb_eq, State.dispatchBatch_cfg, targetOf_toNat]
    omega
  case refine_4 =>
    rw [if_pos hl]
    exact ⟨rfl, rfl, rfl, rfl, rfl, fun _ => rfl, rfl, ⟨rfl, rfl⟩, rfl, rfl⟩
  case refine_5 => rw [if_neg (Nat.not_lt.mpr hl)]

/-! ### Join, commit and the fatal stop (R247 to R249, R252) -/

theorem saturatingCount_toNat (cnt : Word) (n : Nat) : (saturatingCount cnt n).toNat = min (cnt.toNat + n) (2 ^ 32 - 1) := by
  rw [saturatingCount, BitVec.toNat_ofNat]
  omega

theorem saturatingCount_zero (cnt : Word) : saturatingCount cnt 0 = cnt := by
  apply BitVec.eq_of_toNat_eq
  rw [saturatingCount_toNat]
  omega

/-- What counting the faults of a batch writes, whether a lane faulted or not. -/
theorem State.countFaults_eq (s : State) :
    s.countFaults = { s with
      status := { s.status with wkerr := s.status.wkerr || decide (0 < s.batchFaults) }
      res := { s.res with wkerrcnt := saturatingCount s.res.wkerrcnt s.batchFaults } } := by
  unfold State.countFaults
  split
  next h => simp [h, saturatingCount_zero]
  next h => simp [Nat.pos_of_ne_zero h]

@[simp] theorem State.batchTrials_countFaults (s : State) : s.countFaults.batchTrials = s.batchTrials := by
  simp [State.batchTrials]

section
variable {s : State}

theorem State.join_of_fresh (ht : s.batchTrials ≠ 0) (h : mapBit s.res.donemap s.coord.cidx.toNat = false) :
    s.join = .next (s.countFaults.commit s.batchMatches) := by
  simp [State.join, ht, h]

theorem State.join_of_done (ht : s.batchTrials ≠ 0) (h : mapBit s.res.donemap s.coord.cidx.toNat = true) :
    s.join = .next s.countFaults.fatal := by
  simp [State.join, ht, h]

end

/-- A lane keeps its counters, micro-PC, fault code and source when it is released at the join (R247). -/
theorem State.releaseBatch_lane {s : State} {l : Nat} {L : Lane} (hL : s.lanes[l]? = some L) :
    ∃ L', s.releaseBatch.lanes[l]? = some L' ∧ L'.lrun = (if l < s.cfg.workers then .idle else L.lrun) ∧ L'.lf = L.lf ∧
      L'.upc = L.upc ∧ KeepsCounters L L' ∧ KeepsSource L L' := by
  refine ⟨_, getElem?_mapLanesFrom_zero hL, ?_⟩
  split
  · exact ⟨rfl, rfl, rfl, ⟨rfl, rfl⟩, rfl, rfl⟩
  · exact ⟨rfl, rfl, rfl, ⟨rfl, rfl⟩, rfl, rfl⟩

/-- Settles O49: the join counts the faults, then commits a fresh index or stops at one that has its result. -/
theorem joinCommitsOnce : Obligations.JoinCommitsOnce := by
  unfold Obligations.JoinCommitsOnce
  intro s hwait hready htrials hidx
  rw [coordinatorStep_of_join hwait hready]
  have ht : s.batchTrials ≠ 0 := Nat.ne_of_gt htrials
  refine ⟨fun hfresh => ?_, fun hdone => ?_⟩
  · refine ⟨_, State.join_of_fresh ht hfresh, by simp, by simp, by simp, ?_, ?_, ?_, fun j => ?_, by simp, fun l L hL => ?_⟩
    · rw [State.commit_status, State.countFaults_eq]
      rfl
    · rw [State.commit_res, State.countFaults_eq]
      rfl
    · rw [State.commit_res, State.countFaults_eq]
      exact saturatingCount_toNat _ _
    · rw [State.commit_res, State.batchTrials_countFaults, State.countFaults_coord,
        ResultRegs.mapBit_donemap_commit _ _ _ _ hidx, ResultRegs.mapBit_pnb_commit _ _ _ _ hidx,
        ResultRegs.mapBit_npnb_commit _ _ _ _ hidx, ResultRegs.matchCounts_commit, ResultRegs.bias_commit, State.countFaults_eq]
      exact ⟨rfl, rfl, rfl, rfl, rfl⟩
    · have hlane := State.releaseBatch_lane (s := s.countFaults) (L := L) (by simpa using hL)
      simpa using hlane
  · refine ⟨_, State.join_of_done ht hdone, ?_⟩
    have hidle : ∀ L ∈ s.countFaults.fatal.lanes, L.lrun = .idle := by
      intro L hL
      obtain ⟨l, M, -, rfl⟩ := mem_mapLanesFrom.mp hL
      rfl
    rw [State.countFaults_eq] at hidle ⊢
    exact ⟨rfl, rfl, rfl, rfl, rfl, rfl, rfl, rfl, rfl, rfl, hidle⟩

/-! ### Completion (R245, R251) -/

/-- Settles O58, from the invariant: `DONEMAP` and `PROGRESS` are exact below `CIDX`, and each result has one class. -/
theorem completionIsExact : Obligations.CompletionIsExact := by
  unfold Obligations.CompletionIsExact
  intro s h hscan hlast
  have r := h.scanning hscan
  have hdone (idx : Nat) :
      mapBit s.res.donemap idx = (decide (idx < s.cfg.keyBitCount) && !mapBit s.cfg.skip idx) := by
    rw [r.donemap, State.completedBelow, hscan, hlast]
    rfl
  refine ⟨s.complete, (coordinatorStep_of_scan hscan).trans (congrArg _ (State.scan_of_last hlast)), rfl, rfl,
    fun idx hlt hskip => ?_, fun idx hout => ?_, hlast ▸ r.progress⟩
  · have hset : mapBit s.res.donemap idx = true := by simp [hdone, hlt, hskip]
    obtain ⟨hclass, hone⟩ := h.classified idx
    refine ⟨hset, ?_⟩
    rw [State.complete_res]
    cases hn : mapBit s.res.npnb idx with
    | false => simpa [hset, hn] using hclass
    | true => simpa [hn] using hone
  · have hclear : mapBit s.res.donemap idx = false := by
      rcases hout with hge | hskip
      · simp [hdone, Nat.not_lt.mpr hge]
      · simp [hdone, hskip]
    obtain ⟨hclass, -⟩ := h.classified idx
    obtain ⟨hpnb, hnpnb⟩ : mapBit s.res.pnb idx = false ∧ mapBit s.res.npnb idx = false := by simpa [hclear] using hclass
    exact ⟨hclear, hpnb, hnpnb⟩

/-! ### START (R241 to R244) -/

theorem regWrite_start {s : State} {v : Word} (hidle : s.coord.cst = .idle) (hstart : getBit v 0 = true) :
    regWrite s 0x000 v = .next s.start := by
  obtain ⟨-, hctrl, -⟩ := ctrlWrites s v
  exact hctrl hidle hstart

section
variable {s : State}

theorem State.start_of_refused {e : StartError} (h : startRefusal s.cfg s.lanes.length = some e) :
    s.start = s.refuseStart e := by
  simp [State.start, h]

theorem State.start_of_legal (h : startRefusal s.cfg s.lanes.length = none) : s.start = s.acceptStart := by
  simp [State.start, h]

end

section
variable {c : CfgRegs} {n : Nat}

theorem CfgRegs.roundsLegal_eq_false_iff :
    c.roundsLegal = false ↔ 2 * c.rint + c.rfrac.toNat < 2 * c.fint + c.ffrac.toNat := by
  simp [CfgRegs.roundsLegal]

theorem CfgRegs.roundsLegal_eq_true_iff :
    c.roundsLegal = true ↔ 2 * c.fint + c.ffrac.toNat ≤ 2 * c.rint + c.rfrac.toNat := by
  simp [CfgRegs.roundsLegal]

theorem CfgRegs.trials_eq_zero_iff : c.trials = 0 ↔ c.trials.toNat = 0 := BitVec.toNat_inj.symm

theorem startRefusal_rounds (h : c.roundsLegal = false) : startRefusal c n = some .rounds := if_pos h

theorem startRefusal_workers (hr : c.roundsLegal = true) (h : c.workers = 0 ∨ n < c.workers) :
    startRefusal c n = some .workers := by
  simp [startRefusal, hr, h]

theorem startRefusal_trials (hr : c.roundsLegal = true) (hw : ¬ (c.workers = 0 ∨ n < c.workers))
    (h : c.trials = 0 ∨ 2 ^ 40 < c.trials.toNat) : startRefusal c n = some .trials := by
  rw [startRefusal, hr, if_neg (by simp), if_neg hw, if_pos h]

end

/-- Settles O46: the START checks one after the other, and the two things a START can do. -/
theorem startRefusals : Obligations.StartRefusals := by
  unfold Obligations.StartRefusals
  intro s v hidle hstart
  rw [regWrite_start hidle hstart]
  have legal (hr : ¬ 2 * s.cfg.rint + s.cfg.rfrac.toNat < 2 * s.cfg.fint + s.cfg.ffrac.toNat) :
      s.cfg.roundsLegal = true := CfgRegs.roundsLegal_eq_true_iff.mpr (Nat.not_lt.mp hr)
  refine ⟨fun hr => ?_, fun hr hw => ?_, fun hr hw ht => ?_, fun hr hw ht => ?_, rfl, rfl, rfl⟩
  · exact congrArg _ (State.start_of_refused (startRefusal_rounds (CfgRegs.roundsLegal_eq_false_iff.mpr hr)))
  · exact congrArg _ (State.start_of_refused (startRefusal_workers (legal hr) hw))
  · rw [← CfgRegs.trials_eq_zero_iff] at ht
    exact congrArg _ (State.start_of_refused (startRefusal_trials (legal hr) hw ht))
  · rw [← CfgRegs.trials_eq_zero_iff] at ht
    obtain ⟨hw0, hwn⟩ := not_or.mp hw
    obtain ⟨ht0, htmax⟩ := not_or.mp ht
    have hlegal := startRefusal_eq_none_iff.mpr ⟨legal hr, hw0, Nat.not_lt.mp hwn, ht0, Nat.not_lt.mp htmax⟩
    exact ⟨s.acceptStart, congrArg _ (State.start_of_legal hlegal), rfl⟩

/-- Settles O50. -/
theorem progressStep : Obligations.ProgressStep := by
  unfold Obligations.ProgressStep
  exact fun s hprog => coordinatorStep_of_prog hprog

end Sys2Proof.Machine
end

section
/-! ## The order of binary64, classification, and the accepted START (R241, R243, R244, R249) -/

namespace Sys2Proof.Machine

namespace F64

/-! ### The fields of a pattern -/

theorem sign_eq_decide (x : Word64) : sign x = decide (2 ^ 63 ≤ x.toNat) := BitVec.msb_eq_decide x

theorem expField_eq (x : Word64) : expField x = x.toNat / 2 ^ 52 % 2 ^ 11 := by
  simp [expField, Nat.shiftRight_eq_div_pow]

theorem fracField_eq (x : Word64) : fracField x = x.toNat % 2 ^ 52 := by
  simp [fracField]

theorem abs_toNat (x : Word64) : (abs x).toNat = x.toNat % 2 ^ 63 := by
  rw [abs, BitVec.toNat_and]
  exact Nat.and_two_pow_sub_one_eq_mod _ 63

/-- The NaNs are the patterns past the infinities. -/
theorem isNaN_eq_decide (x : Word64) : isNaN x = decide (2047 * 2 ^ 52 < (abs x).toNat) := by
  rw [isNaN, expField_eq, fracField_eq, abs_toNat, Bool.eq_iff_iff]
  simp only [Bool.and_eq_true, beq_iff_eq, bne_iff_ne, decide_eq_true_eq]
  omega

@[simp] theorem abs_abs (x : Word64) : abs (abs x) = abs x := by
  simp [abs, BitVec.and_assoc]

@[simp] theorem isNaN_abs (x : Word64) : isNaN (abs x) = isNaN x := by
  simp [isNaN_eq_decide]

@[simp] theorem orderKey_abs (x : Word64) : orderKey (abs x) = (abs x).toNat := by
  have hsign : sign (abs x) = false := by
    rw [sign_eq_decide, abs_toNat, decide_eq_false_iff_not]
    omega
  simp [orderKey, hsign]

/-! ### The order (R249) -/

theorem lt_eq_true_iff {x y : Word64} :
    lt x y = true ↔ isNaN x = false ∧ isNaN y = false ∧ orderKey x < orderKey y := by
  simp [lt, and_assoc]

theorem le_eq_true_iff {x y : Word64} :
    le x y = true ↔ isNaN x = false ∧ isNaN y = false ∧ orderKey x ≤ orderKey y := by
  simp [le, and_assoc]

theorem le_of_le_of_le {x y z : Word64} (hxy : le x y = true) (hyz : le y z = true) : le x z = true := by
  obtain ⟨hx, -, hkey⟩ := le_eq_true_iff.mp hxy
  obtain ⟨-, hz, hkey'⟩ := le_eq_true_iff.mp hyz
  exact le_eq_true_iff.mpr ⟨hx, hz, hkey.trans hkey'⟩

theorem orderKey_of_abs_eq {x : Word64} (hx : abs x = x) : orderKey x = x.toNat := by
  rw [← hx, orderKey_abs, hx]

/-- Between magnitudes the order is that of the patterns. -/
theorem le_abs_iff {x b : Word64} (hx : abs x = x) (hnan : isNaN x = false) (hb : isNaN b = false) :
    le x (abs b) = true ↔ x.toNat ≤ (abs b).toNat := by
  simp [le_eq_true_iff, hnan, hb, orderKey_of_abs_eq hx]

theorem abs_le_iff {x b : Word64} (hx : abs x = x) (hnan : isNaN x = false) (hb : isNaN b = false) :
    le (abs b) x = true ↔ (abs b).toNat ≤ x.toNat := by
  simp [le_eq_true_iff, hnan, hb, orderKey_of_abs_eq hx]

theorem zero_lt_abs_iff {b : Word64} (hb : isNaN b = false) : lt zero (abs b) = true ↔ abs b ≠ 0 := by
  have hkey : orderKey zero = 0 := by decide
  have hnan : isNaN zero = false := by decide
  have hne : abs b ≠ 0 ↔ 0 < (abs b).toNat := by rw [Nat.pos_iff_ne_zero, Ne, ← BitVec.toNat_inj]; rfl
  rw [lt_eq_true_iff, isNaN_abs, orderKey_abs, hkey, hne]
  simp [hnan, hb]

end F64

/-! ### Classification and the threshold in effect (R243, R249) -/

theorem isPnb_eq_true_iff {b t : Word64} :
    isPnb b t = true ↔ F64.le t (F64.abs b) = true ∧ F64.lt F64.zero (F64.abs b) = true := by
  simp [isPnb]

/-- Settles O52: the order is transitive, and between magnitudes it is that of the patterns. -/
theorem classificationIsMonotone : Obligations.ClassificationIsMonotone := by
  unfold Obligations.ClassificationIsMonotone
  simp only [isPnb_eq_true_iff]
  refine ⟨fun b t t' ht hb => ⟨F64.le_of_le_of_le ht hb.1, hb.2⟩, fun b hb => ?_, fun b hb hle => ?_⟩
  · rw [F64.zero_lt_abs_iff hb, F64.le_abs_iff (by decide) (by decide) hb]
    exact and_iff_right (Nat.zero_le _)
  · rw [F64.abs_le_iff (by decide) (by decide) hb] at hle
    rw [F64.zero_lt_abs_iff hb, F64.le_abs_iff (by decide) (by decide) hb]
    constructor
    · rintro ⟨hge, -⟩
      exact BitVec.eq_of_toNat_eq (Nat.le_antisymm hle hge)
    · intro habs
      rw [habs]
      decide

/-- A threshold is in [0, 1] exactly when its pattern is `−0.0` or at most that of `1.0` (R243). -/
theorem thresholdOutOfRange_eq_false_iff {t : Word64} :
    thresholdOutOfRange t = false ↔ t = 0x8000000000000000 ∨ t.toNat ≤ 0x3FF0000000000000 := by
  have hzero : F64.isNaN F64.zero = false ∧ F64.orderKey F64.zero = 0 := by decide
  have hone : F64.isNaN F64.one = false ∧ F64.orderKey F64.one = 0x3FF0000000000000 := by decide
  have hneg : t = 0x8000000000000000 ↔ t.toNat = 2 ^ 63 := by rw [← BitVec.toNat_inj]; rfl
  have ht := t.isLt
  rw [thresholdOutOfRange, F64.lt, F64.lt, hzero.1, hzero.2, hone.1, hone.2, F64.isNaN_eq_decide, F64.orderKey,
    F64.sign_eq_decide, F64.abs_toNat, hneg]
  simp only [Bool.not_false, Bool.and_true, Bool.true_and, Bool.or_eq_false_iff, Bool.and_eq_false_imp,
    Bool.not_eq_eq_eq_not, Bool.not_true, decide_eq_true_eq, decide_eq_false_iff_not]
  omega

/-- The two cases of the latch: in range, the threshold itself; else 0.35 (R243). -/
theorem effectiveThreshold_of_inRange {t : Word64} (h : thresholdOutOfRange t = false) : effectiveThreshold t = t := by
  simp [effectiveThreshold, h]

theorem effectiveThreshold_of_outOfRange {t : Word64} (h : thresholdOutOfRange t = true) :
    effectiveThreshold t = defaultThreshold := by
  simp [effectiveThreshold, h]

/-- Settles O47: a legal configuration is accepted, and the threshold is latched when its pattern is in range. -/
theorem acceptedStart : Obligations.AcceptedStart := by
  unfold Obligations.AcceptedStart
  intro s v hidle hstart hrounds hw hwn ht htmax
  have hlegal : startRefusal s.cfg s.lanes.length = none := startRefusal_eq_none_iff.mpr
    ⟨CfgRegs.roundsLegal_eq_true_iff.mpr hrounds, Nat.ne_of_gt hw, hwn,
      fun h => Nat.ne_of_gt ht (CfgRegs.trials_eq_zero_iff.mp h), htmax⟩
  rw [regWrite_start hidle hstart, State.start_of_legal hlegal]
  refine ⟨s.acceptStart, rfl, rfl, rfl, rfl, rfl, fun hin => ?_, fun hout => ?_, rfl, rfl, rfl, rfl, rfl, rfl, rfl, rfl, rfl,
    fun idx => ?_, fun k => ?_, length_mapLanesFrom _ _ _, fun l L hL =>
      ⟨_, getElem?_mapLanesFrom_zero hL, rfl, rfl, rfl, rfl, rfl, rfl, rfl⟩⟩
  · have hrange := thresholdOutOfRange_eq_false_iff.mpr hin
    exact ⟨effectiveThreshold_of_inRange hrange, hrange⟩
  · have hrange : thresholdOutOfRange s.cfg.thr = true := by simpa using mt thresholdOutOfRange_eq_false_iff.mp hout
    exact ⟨effectiveThreshold_of_outOfRange hrange, hrange⟩
  · simp [ResultRegs.clear]
  · simp [ResultRegs.clear]

end Sys2Proof.Machine
end

section
/-! ## The bias of all, none and half of the trials (R248)

A ratio's rounding depends on its value alone (`ofRatio_mul_right`), because `log2Ratio` is the integer part of the base-2
logarithm of it; and the integers below 2^53 convert exactly. So the bias of `m` of `T` trials is found without rounding
whenever `T` divides `2 m`. -/

namespace Sys2Proof.Machine

namespace F64

/-! ### Rounding depends on the value of the ratio alone -/

section
variable {n d c : Nat}

/-- A comparison of two numbers scaled by powers of two is one of their ratio with a power of two. -/
theorem shiftLeft_le_shiftLeft_iff (hd : 0 < d) (e : Int) :
    d <<< e.toNat ≤ n <<< (-e).toNat ↔ (2 : ℚ) ^ e ≤ (n : ℚ) / d := by
  have hd' : (0 : ℚ) < d := by exact_mod_cast hd
  have hsplit : e = (e.toNat : Int) - ((-e).toNat : Int) := by omega
  have hpow : (2 : ℚ) ^ e = 2 ^ e.toNat / 2 ^ (-e).toNat := by
    conv_lhs => rw [hsplit]
    rw [zpow_sub₀ two_ne_zero, zpow_natCast, zpow_natCast]
  rw [hpow, div_le_div_iff₀ (by positivity) hd', Nat.shiftLeft_eq, Nat.shiftLeft_eq, mul_comm d]
  exact_mod_cast Iff.rfl

/-- A ratio lies within a factor of two of the power of two of its terms' logarithms. -/
theorem two_zpow_log2_bounds (hn : 0 < n) (hd : 0 < d) :
    (2 : ℚ) ^ ((n.log2 : Int) - d.log2 - 1) ≤ (n : ℚ) / d ∧ (n : ℚ) / d < (2 : ℚ) ^ ((n.log2 : Int) - d.log2 + 1) := by
  have hnlow : (2 : ℚ) ^ n.log2 ≤ n := by exact_mod_cast Nat.log2_self_le hn.ne'
  have hnhigh : (n : ℚ) < 2 ^ (n.log2 + 1) := by exact_mod_cast Nat.lt_log2_self
  have hdlow : (2 : ℚ) ^ d.log2 ≤ d := by exact_mod_cast Nat.log2_self_le hd.ne'
  have hdhigh : (d : ℚ) < 2 ^ (d.log2 + 1) := by exact_mod_cast Nat.lt_log2_self
  have hd' : (0 : ℚ) < d := by exact_mod_cast hd
  constructor
  · calc (2 : ℚ) ^ ((n.log2 : Int) - d.log2 - 1) = 2 ^ n.log2 / 2 ^ (d.log2 + 1) := by
          rw [sub_sub, zpow_sub₀ two_ne_zero]
          norm_cast
      _ ≤ n / d := div_le_div₀ n.cast_nonneg hnlow hd' hdhigh.le
  · calc (n : ℚ) / d < 2 ^ (n.log2 + 1) / 2 ^ d.log2 := div_lt_div₀ hnhigh hdlow (by positivity) (by positivity)
      _ = 2 ^ ((n.log2 : Int) - d.log2 + 1) := by
          rw [sub_add_eq_add_sub, zpow_sub₀ two_ne_zero]
          norm_cast

/-- `log2Ratio` is the integer part of the base-2 logarithm of the ratio. -/
theorem log2Ratio_eq_log (hn : 0 < n) (hd : 0 < d) : log2Ratio n d = Int.log 2 ((n : ℚ) / d) := by
  have hpos : (0 : ℚ) < (n : ℚ) / d := by
    have hd' : (0 : ℚ) < d := by exact_mod_cast hd
    positivity
  have hle (e : Int) : (2 : ℚ) ^ e ≤ (n : ℚ) / d ↔ e ≤ Int.log 2 ((n : ℚ) / d) := by
    exact_mod_cast Int.zpow_le_iff_le_log Nat.one_lt_two hpos
  obtain ⟨hlow, hhigh⟩ := two_zpow_log2_bounds hn hd
  rw [hle] at hlow
  rw [← not_le, hle] at hhigh
  simp only [log2Ratio, shiftLeft_le_shiftLeft_iff hd, hle]
  split <;> omega

theorem roundScaled_mul_right (hc : 0 < c) (q : Int) : roundScaled (n * c) (d * c) q = roundScaled n d q := by
  have hnum : (n * c) <<< q.toNat = n <<< q.toNat * c := by simp only [Nat.shiftLeft_eq]; ring
  have hden : (d * c) <<< (-q).toNat = d <<< (-q).toNat * c := by simp only [Nat.shiftLeft_eq]; ring
  simp only [roundScaled, hnum, hden, Nat.mul_div_mul_right _ _ hc, Nat.mul_mod_mul_right, ← Nat.mul_assoc,
    Nat.mul_lt_mul_right hc, Nat.mul_left_inj hc.ne']

theorem packRatio_mul_right (hn : 0 < n) (hd : 0 < d) (hc : 0 < c) : packRatio (n * c) (d * c) = packRatio n d := by
  have hc' : (c : ℚ) ≠ 0 := by exact_mod_cast hc.ne'
  have hlog : log2Ratio (n * c) (d * c) = log2Ratio n d := by
    rw [log2Ratio_eq_log (Nat.mul_pos hn hc) (Nat.mul_pos hd hc), log2Ratio_eq_log hn hd, Nat.cast_mul, Nat.cast_mul,
      mul_div_mul_right _ _ hc']
  simp only [packRatio, hlog, roundScaled_mul_right hc]

theorem ofRatio_mul_right (neg : Bool) (hd : 0 < d) (hc : 0 < c) : ofRatio neg (n * c) (d * c) = ofRatio neg n d := by
  rcases Nat.eq_zero_or_pos n with rfl | hn
  · simp [ofRatio]
  · simp only [ofRatio, packRatio_mul_right hn hd hc, Nat.mul_eq_zero, hn.ne', hc.ne', or_self]

end

/-! ### Integers below 2^53 convert exactly -/

theorem packed_lt (n d : Nat) : (if n = 0 then 0 else packRatio n d) < 2 ^ 63 := by
  split
  · decide
  · exact Nat.lt_of_le_of_lt (Nat.min_le_right _ _) (by decide)

theorem ofRatio_toNat (neg : Bool) (n d : Nat) :
    (ofRatio neg n d).toNat = neg.toNat * 2 ^ 63 + if n = 0 then 0 else packRatio n d := by
  have hpack := packed_lt n d
  rw [ofRatio, BitVec.toNat_append, BitVec.toNat_ofNat, Nat.mod_eq_of_lt hpack,
    ← Nat.shiftLeft_add_eq_or_of_lt hpack, BitVec.toNat_ofBool, Nat.shiftLeft_eq]

theorem sign_ofNat (n : Nat) : sign (ofNat n) = false := by
  rw [sign_eq_decide, ofNat, ofRatio_toNat, decide_eq_false_iff_not, Bool.toNat_false, Nat.zero_mul, Nat.zero_add]
  exact Nat.not_le.mpr (packed_lt n 1)

/-- A normal number: significand `m`, exponent field `e + 1`. -/
theorem magnitude_of_toNat {x : Word64} {e m : Nat} (hx : x.toNat = e * 2 ^ 52 + m) (he : e < 2046) (hlow : 2 ^ 52 ≤ m)
    (hhigh : m < 2 ^ 53) : magnitude x = m * 2 ^ e := by
  have hexp : expField x = e + 1 := by rw [expField_eq, hx]; omega
  have hfrac : fracField x + 2 ^ 52 = m := by rw [fracField_eq, hx]; omega
  rw [magnitude, if_neg (by omega), hexp, hfrac, Nat.shiftLeft_eq, Nat.add_sub_cancel]

theorem roundScaled_one (n q : Nat) : roundScaled n 1 q = n * 2 ^ q := by
  simp [roundScaled, Nat.shiftLeft_eq, Nat.mod_one]

/-- An integer below 2^53 is its own significand, shifted. -/
theorem packRatio_one {n : Nat} (hn : 0 < n) (hlt : n < 2 ^ 53) :
    2 ^ 52 ≤ n * 2 ^ (52 - n.log2) ∧ n * 2 ^ (52 - n.log2) < 2 ^ 53 ∧
      packRatio n 1 = (n.log2 + 1022) * 2 ^ 52 + n * 2 ^ (52 - n.log2) := by
  have hlog : n.log2 < 53 := (Nat.log2_lt hn.ne').mpr hlt
  have hlow : 2 ^ 52 ≤ n * 2 ^ (52 - n.log2) :=
    calc 2 ^ 52 = 2 ^ n.log2 * 2 ^ (52 - n.log2) := by rw [← pow_add]; congr 1; omega
      _ ≤ n * 2 ^ (52 - n.log2) := Nat.mul_le_mul_right _ (Nat.log2_self_le hn.ne')
  have hhigh : n * 2 ^ (52 - n.log2) < 2 ^ 53 :=
    calc n * 2 ^ (52 - n.log2) < 2 ^ (n.log2 + 1) * 2 ^ (52 - n.log2) :=
          Nat.mul_lt_mul_of_pos_right Nat.lt_log2_self (Nat.two_pow_pos _)
      _ = 2 ^ 53 := by rw [← pow_add]; congr 1; omega
  have hratio : log2Ratio n 1 = n.log2 := by
    rw [log2Ratio_eq_log hn Nat.one_pos, Nat.cast_one, div_one, Int.log_natCast, Nat.log2_eq_log_two]
  have hexp : max (n.log2 : Int) (-1022) = n.log2 := by omega
  have hscale : 52 - (n.log2 : Int) = (52 - n.log2 : Nat) := by omega
  refine ⟨hlow, hhigh, ?_⟩
  rw [packRatio, hratio, hexp, hscale, roundScaled_one]
  omega

/-- The number 1 in the units of `magnitude` and `value`, `2^-1074`. -/
def unitsOfOne : Nat := 2 ^ 1074

theorem unitsOfOne_pos : 0 < unitsOfOne := by
  rw [unitsOfOne]
  exact pow_pos two_pos 1074

/-- The conversion of an integer below 2^53 is exact (R248). -/
theorem magnitude_ofNat {n : Nat} (hn : n < 2 ^ 53) : magnitude (ofNat n) = n * unitsOfOne := by
  rcases Nat.eq_zero_or_pos n with rfl | hpos
  · rw [Nat.zero_mul]
    rfl
  · obtain ⟨hlow, hhigh, hpack⟩ := packRatio_one hpos hn
    have hlog : n.log2 < 53 := (Nat.log2_lt hpos.ne').mpr hn
    have hx : (ofNat n).toNat = (n.log2 + 1022) * 2 ^ 52 + n * 2 ^ (52 - n.log2) := by
      rw [ofNat, ofRatio_toNat, if_neg hpos.ne', hpack, Bool.toNat_false, Nat.zero_mul, Nat.zero_add]
    have hunits : 52 - n.log2 + (n.log2 + 1022) = 1074 := by omega
    rw [magnitude_of_toNat hx (by omega) hlow hhigh, Nat.mul_assoc, ← pow_add, hunits, unitsOfOne]

theorem value_ofNat {n : Nat} (hn : n < 2 ^ 53) : value (ofNat n) = n * unitsOfOne := by
  rw [value, sign_ofNat, magnitude_ofNat hn, if_neg Bool.false_ne_true, Nat.cast_mul]

/-! ### The operations on integers below 2^53 (R248) -/

section
variable {a b : Nat}

theorem mul_ofNat (ha : a < 2 ^ 53) (hb : b < 2 ^ 53) : mul (ofNat a) (ofNat b) = ofNat (a * b) := by
  have hunits : 2 ^ 2148 = 1 * (unitsOfOne * unitsOfOne) := by
    have hexp : 2148 = 1074 + 1074 := rfl
    rw [unitsOfOne, Nat.one_mul, hexp, pow_add]
  rw [mul, sign_ofNat, sign_ofNat, magnitude_ofNat ha, magnitude_ofNat hb, Nat.mul_mul_mul_comm, hunits]
  exact ofRatio_mul_right _ Nat.one_pos (Nat.mul_pos unitsOfOne_pos unitsOfOne_pos)

theorem div_ofNat (ha : a < 2 ^ 53) (hb : b < 2 ^ 53) (hpos : 0 < b) : div (ofNat a) (ofNat b) = ofRatio false a b := by
  rw [div, sign_ofNat, sign_ofNat, magnitude_ofNat ha, magnitude_ofNat hb]
  exact ofRatio_mul_right _ hpos unitsOfOne_pos

theorem sub_ofNat (ha : a < 2 ^ 53) (hb : b < 2 ^ 53) :
    sub (ofNat a) (ofNat b) = ofRatio (decide (a < b)) ((a : Int) - b).natAbs 1 := by
  have hunits : 2 ^ 1074 = 1 * unitsOfOne := (Nat.one_mul unitsOfOne).symm
  have hpos : (0 : Int) < unitsOfOne := Int.natCast_pos.mpr unitsOfOne_pos
  have hv : value (ofNat a) - value (ofNat b) = ((a : Int) - b) * unitsOfOne := by
    rw [value_ofNat ha, value_ofNat hb, Int.sub_mul]
  simp only [sub, hv]
  split
  next h =>
    have hab : (a : Int) - b = 0 := (Int.mul_eq_zero.mp h).resolve_right hpos.ne'
    have hlt : ¬ a < b := by omega
    simp [sign_ofNat, hab, hlt]
  next =>
    have hneg : ((a : Int) - b) * unitsOfOne < 0 ↔ a < b := by
      rw [← not_le, mul_nonneg_iff_of_pos_right hpos, not_le, sub_neg, Nat.cast_lt]
    rw [hunits, Int.natAbs_mul, Int.natAbs_natCast, ofRatio_mul_right _ Nat.one_pos unitsOfOne_pos, decide_eq_decide.mpr hneg]

end

end F64

/-! ### The bias (R248) -/

/-- When the trials divide twice the matches, the bias is a whole number, and exact. -/
theorem biasOf_of_two_mul_eq {m T k : Nat} (hT : 1 ≤ T) (hT' : T < 2 ^ 53) (hm : 2 * m < 2 ^ 53) (h : 2 * m = k * T) :
    biasOf m T = F64.ofRatio (decide (k < 1)) ((k : Int) - 1).natAbs 1 := by
  have hk : k < 2 ^ 53 := Nat.lt_of_le_of_lt (h ▸ Nat.le_mul_of_pos_right k hT) hm
  have htwo : F64.two = F64.ofNat 2 := by decide
  have hone : F64.one = F64.ofNat 1 := by decide
  have hquot : F64.ofRatio false (k * T) T = F64.ofNat k := by
    conv_lhs => rw [← Nat.one_mul T, ← Nat.mul_assoc, Nat.mul_one]
    exact F64.ofRatio_mul_right _ Nat.one_pos hT
  rw [biasOf, htwo, hone, F64.mul_ofNat (by decide) (by omega), F64.div_ofNat hm hT' hT, h, hquot,
    F64.sub_ofNat hk (by decide)]
  rfl

/-- Settles O51: twice the matches is two, none or one times the trials. -/
theorem biasAtTheEnds : Obligations.BiasAtTheEnds := by
  unfold Obligations.BiasAtTheEnds
  refine ⟨fun T hT hT' => ⟨?_, ?_⟩, fun m hm hm' => ?_, fun n hn => ?_⟩
  · rw [biasOf_of_two_mul_eq (k := 2) hT (by omega) (by omega) rfl]
    decide
  · rw [biasOf_of_two_mul_eq (k := 0) hT (by omega) (by omega) (by omega)]
    decide
  · rw [biasOf_of_two_mul_eq (k := 1) (by omega) (by omega) (by omega) (by omega)]
    decide
  · rw [F64.value_ofNat hn, F64.unitsOfOne, Nat.cast_pow, Nat.cast_ofNat]

end Sys2Proof.Machine
end

section
/-! ## Reset (R340) -/

namespace Sys2Proof.Machine

/-! ### `State.reset` and the reset event give one kind of state -/

/-- The state after a reset, its scratch contents, RNG sources and inputs left open: `State.reset` and what the reset
event makes of any machine of 1 to 256 lanes are such states. -/
structure AfterReset (s : State) : Prop where
  count : 1 ≤ s.lanes.length ∧ s.lanes.length ≤ 256
  lanes : ∀ L ∈ s.lanes, ∃ tick l rng drawn, L = Lane.reset tick l rng drawn
  cfg : s.cfg = CfgRegs.reset s.lanes.length
  status : s.status = StatusReg.clear
  res : s.res = ResultRegs.clear
  coord : s.coord = Coord.reset

theorem length_lanes_reset : State.reset.lanes.length = Config.nlanes := by
  simp [State.reset, Config.nlanes]

theorem afterReset_reset : AfterReset State.reset where
  count := by
    have := Config.lanesBeyondFirst.isLt
    rw [length_lanes_reset, Config.nlanes]
    omega
  lanes := fun L hL => by
    rcases List.mem_cons.mp hL with rfl | hL
    · exact ⟨_, _, _, _, rfl⟩
    · obtain ⟨l, -, rfl⟩ := List.mem_map.mp hL
      exact ⟨_, _, _, _, rfl⟩
  cfg := by rw [length_lanes_reset]; rfl
  status := rfl
  res := rfl
  coord := rfl

theorem afterReset_resetEvent {s : State} (h : 1 ≤ s.lanes.length ∧ s.lanes.length ≤ 256) : AfterReset s.resetEvent where
  count := by simpa using h
  lanes := fun L hL => by
    obtain ⟨l, M, -, rfl⟩ := mem_mapLanesFrom.mp hL
    exact ⟨_, _, _, _, rfl⟩
  cfg := by simp
  status := rfl
  res := rfl
  coord := rfl

/-- The reset event leaves every lane's RNG source where it was (R46, R340). -/
theorem keepsSource_resetEvent {s : State} {l : Nat} {L : Lane} (hL : s.lanes[l]? = some L) :
    ∃ L', s.resetEvent.lanes[l]? = some L' ∧ KeepsSource L L' :=
  ⟨_, getElem?_mapLanesFrom_zero hL, rfl, rfl⟩

theorem step_of_reset {s : State} (h : s.nextAgent = .reset) : step s = .next s.takeTurn.resetEvent := by
  simp [step, stepOnce, agentStep, h]

/-! ### What holds after a reset -/

section
variable {s : State}

theorem State.statusWord_of_clear (hidle : s.coord.cst = .idle) (hclear : s.status = StatusReg.clear) :
    s.statusWord = 0 := by
  have hs : s.clearStatus = s := by rw [State.clearStatus, ← hclear]
  exact hs ▸ State.statusWord_clearStatus hidle

/-- The default worker count fits the word `NW` (R32). -/
theorem toNat_nw_reset {n : Nat} (h : n ≤ 256) : (CfgRegs.reset n).nw.toNat = max 1 (n - 1) := by
  simp only [CfgRegs.reset, BitVec.toNat_ofNat]
  omega

theorem AfterReset.cst_eq (h : AfterReset s) : s.coord.cst = .idle := by
  rw [h.coord]
  rfl

theorem AfterReset.resetValues (h : AfterReset s) : ResetValues s where
  mode := by rw [h.cfg]; rfl
  rounds := by rw [h.cfg]; rfl
  nw := by rw [h.cfg, toNat_nw_reset h.count.2]
  trials := by rw [h.cfg]; rfl
  thr := by rw [h.cfg]; rfl
  maps := by simp [h.cfg, CfgRegs.reset]
  ivfix := by simp [h.cfg, CfgRegs.reset]
  target := by rw [h.cfg]; rfl
  status := State.statusWord_of_clear h.cst_eq h.status
  progress := by rw [h.res]; exact ⟨rfl, rfl⟩
  results := by simp [h.res, ResultRegs.clear]
  bitmaps := by simp [h.res, ResultRegs.clear]
  coord := by rw [h.coord]; exact ⟨rfl, rfl, rfl⟩
  lanes := fun L hL => by
    obtain ⟨tick, l, rng, drawn, rfl⟩ := h.lanes L hL
    exact ⟨rfl, rfl, rfl, rfl, rfl⟩

theorem AfterReset.inv (h : AfterReset s) : Inv s :=
  inv_of_reset h.count (fun L hL => (h.resetValues.lanes L hL).1) h.cfg h.status h.res h.coord

/-! ### Nothing executes (R341) -/

theorem ResetValues.step_coordinator (h : ResetValues s) (hturn : s.nextAgent = .coordinator) :
    step s = .next s.takeTurn := by
  obtain ⟨-, -, -, -, hstep, -⟩ := idleAgentsTakeNoStep s
  obtain ⟨hidle, -, -⟩ := h.coord
  exact hstep hturn hidle

theorem ResetValues.step_lane (h : ResetValues s) {l : Nat} (hturn : s.nextAgent = .lane l) : step s = .next s.takeTurn := by
  refine (step_of_lane hturn).trans (laneStep_of_not_running fun L hL hrun => ?_)
  obtain ⟨hidle, -⟩ := h.lanes L (List.mem_of_getElem? hL)
  exact LRun.noConfusion (hidle.symm.trans hrun)

end

/-- Settles O53: `State.reset` and the reset event both give a state of `AfterReset`, with every lane and the coordinator
idle. -/
theorem resetGivesTheListedValues : Obligations.ResetGivesTheListedValues := by
  unfold Obligations.ResetGivesTheListedValues
  refine ⟨afterReset_reset.resetValues, length_lanes_reset, fun s h hturn => ?_, fun s hturn hlow hhigh => ?_⟩
  · rcases hturn with hturn | ⟨l, hturn⟩
    · exact h.step_coordinator hturn
    · exact h.step_lane hturn
  · have hafter : AfterReset s.takeTurn.resetEvent := afterReset_resetEvent ⟨hlow, hhigh⟩
    exact ⟨_, step_of_reset hturn, hafter.resetValues, by simp, fun l L hL => keepsSource_resetEvent (s := s.takeTurn) hL⟩

/-- Settles O54: `State.reset` is a state of `AfterReset`. -/
theorem invariantAtReset : Obligations.InvariantAtReset := by
  unfold Obligations.InvariantAtReset
  exact afterReset_reset.inv

end Sys2Proof.Machine
end
